-- ==== Sys2Proof/Word.lean ====
section
/-! DEFINITION. The word types of the decoder (00_scope.md rule R6): bytes and 16-bit target addresses. -/

namespace Sys2Proof

/-- `BYTE_W`: a data byte, an adapter value, a status code (rules R6, R21, R22). -/
abbrev Byte := BitVec 8

/-- `TA_W`: a target address, "a 16-bit value" (rules R6, R13). -/
abbrev Addr := BitVec 16

/-- `ADDR7_W`: a slave address, the operand of INITIALIZE (rules R6, R65). -/
abbrev SlaveAddr := BitVec 7

end Sys2Proof
end

