-- ==== Sys2Proof/Config.lean ====
section
/-! DEFINITION. What one implementation fixes (60_exceptions.md rule R150, 00_scope.md rule R6), and the free values
the spec leaves open. The default of each parameter stands in Machine/Defaults.lean. -/

namespace Sys2Proof

/-- `BusCondition`: "an enumerated hardware-reported event" with exactly ten values (rule R20). -/
inductive BusCondition where
  | busError
  | addressMatchWrite
  | addressMatchGeneralCallWrite
  | dataReceivedAck
  | generalCallDataAck
  | stopOrRestart
  | addressMatchRead
  | dataTransmittedAck
  | dataTransmittedNack
  | lastDataAckPending
  deriving DecidableEq, Repr

/-- `WriteState`, "an enumerated type of exactly three values" (rule R10). -/
inductive WriteState where
  /-- AwaitingAddressHighByte, `WS_HI`. -/
  | hi
  /-- AwaitingAddressLowByte, `WS_LO`. -/
  | lo
  /-- StreamingDataByte, `WS_DATA`. -/
  | data
  deriving DecidableEq, Repr

/-- `TA_ON_HI_CAPTURE`: what the capture of the high byte does to `TA` (rule R84, the spec's decision D6). -/
inductive HiCapture where
  | hold
  | zextLow
  | highHalf
  deriving DecidableEq, Repr

/-- `COND_DECODE` as plain data: the codes that stand for a condition, the first entry of a code deciding; every other
code is Unrecognized. Every total map from codes to the eleven classes of rule R62 is such a list. -/
abbrev CondMap := List (Byte × BusCondition)

/-- The configuration, "not state" of the hardware (rule R150). The `CTRL` and `SLA` packings are the functions of
Machine/Flags.lean and Machine/Operands.lean; nothing of a step depends on the `CTRL` packing (rule R23). -/
structure Config where
  condDecode    : CondMap
  taOnHiCapture : HiCapture
  wsReset       : WriteState
  ahReset       : Byte
  taReset       : Addr
  /-- `HOOKS`: whether the observation strobes are recorded (rule R147, decision D18). -/
  hooks         : Bool
  deriving DecidableEq, Repr

/-- FREE VALUE: the adapter's answer to the n-th draw, "a free 8-bit input of the step" (rule R56; log 3). -/
opaque Config.adapterAnswer : Nat → Byte

/-- FREE VALUE: STATUS after the RESET operation, "unspecified" (rule R120; log 2). -/
opaque Config.unspecifiedStatus : Nat → Byte

/-- FREE VALUE: DATA after the RESET operation, "unspecified" (rule R120; log 2). -/
opaque Config.unspecifiedData : Nat → Byte

end Sys2Proof
end

