-- ==== Sys2Proof/Syntax.lean ====
section
/-! DEFINITION. The "instructions" of the decoder: the eleven event classes and the three host operations, one constructor
per row of spec/opcode_table.json, and the two word formats that encode them (30_encoding.md rules R60, R68). -/

namespace Sys2Proof

/-- One row of the opcode table. An event that the decoder performs without reading DATA carries no operand (rule R70). -/
inductive Instr where
  /-- BERR, BusError (rule R110). -/
  | berr
  /-- AMW, AddressMatchWrite (rule R80). -/
  | amw
  /-- AMGC, AddressMatchGeneralCallWrite (rule R81). -/
  | amgc
  /-- RXD, DataReceivedAck, with the received byte (rule R83). -/
  | rxd (b : Byte)
  /-- RXGC, GeneralCallDataAck, with the received byte (rule R89). -/
  | rxgc (b : Byte)
  /-- STOP, StopOrRestart (rule R87). -/
  | stop
  /-- AMR, AddressMatchRead (rule R100). -/
  | amr
  /-- TXA, DataTransmittedAck (rule R101). -/
  | txa
  /-- TXN, DataTransmittedNack (rule R102). -/
  | txn
  /-- TXL, LastDataAckPending (rule R103). -/
  | txl
  /-- UNK, an unrecognised condition, with its status code (rule R111). -/
  | unk (c : Byte)
  /-- RESET, power-on reset (rule R120). -/
  | reset
  /-- INIT, `initialize(slave_address)` (rule R122). -/
  | init (a : SlaveAddr)
  /-- SHDN, `shutdown()` (rule R124). -/
  | shdn
  deriving DecidableEq, Repr

/-- The instruction is an event of format EVT, and not one of the three host operations, which "are not events"
(rule R68). -/
def Instr.isEvent : Instr → Bool
  | .berr | .amw | .amgc | .rxd _ | .rxgc _ | .stop | .amr | .txa | .txn | .txl | .unk _ => true
  | .reset | .init _ | .shdn => false

/-- A word of one of the two formats. They are separate number spaces: an event is what the peripheral reports, a host word
is a request of the host firmware (rules R60, R68). -/
inductive CodeWord where
  /-- Format EVT: `status` in bits 15:8, `data` in bits 7:0 (rule R60). -/
  | evt (w : BitVec 16)
  /-- Format HOST: `op` in bits 8:7, `addr7` in bits 6:0 (rule R68). -/
  | host (w : BitVec 9)
  deriving DecidableEq, Repr

end Sys2Proof
end

