-- ==== Sys2Proof/Decode.lean ====
section
/-! DEFINITION. Decoding of event words and host words, the encoder, and the two default tables they come from
(30_encoding.md rules R60, R62, R63, R68). -/

namespace Sys2Proof

/-- The default `COND_DECODE`: the conditions numbered in the source's order (rule R62, the spec's decision D3). -/
def condDecodeDefault : CondMap :=
  [(0x00#8, .busError),
   (0x01#8, .addressMatchWrite),
   (0x02#8, .addressMatchGeneralCallWrite),
   (0x03#8, .dataReceivedAck),
   (0x04#8, .generalCallDataAck),
   (0x05#8, .stopOrRestart),
   (0x06#8, .addressMatchRead),
   (0x07#8, .dataTransmittedAck),
   (0x08#8, .dataTransmittedNack),
   (0x09#8, .lastDataAckPending)]

/-- `COND_DECODE(code)`, total; `none` is Unrecognized (rules R62, R63). -/
def condDecode : CondMap → Byte → Option BusCondition
  | [], _ => none
  | (c, k) :: rest, code => if code = c then some k else condDecode rest code

/-- The status code that stands for a condition under a map, if any does. -/
def condCode (m : CondMap) (k : BusCondition) : Option Byte :=
  (m.find? fun e => condDecode m e.1 == some k).map Prod.fst

/-- The `status` field of an event word, bits 15:8 (rule R60). -/
def eventStatus (w : BitVec 16) : Byte := w.extractLsb' 8 8

/-- The `data` field of an event word, bits 7:0 (rule R60). -/
def eventData (w : BitVec 16) : Byte := w.extractLsb' 0 8

/-- The event word of a status code and a data byte (rule R60). -/
def eventWord (status data : Byte) : BitVec 16 := status ++ data

/-- The instruction of a condition, with the data byte for the two conditions that read it (rules R62, R70). -/
def conditionInstr (k : BusCondition) (data : Byte) : Instr :=
  match k with
  | .busError => .berr
  | .addressMatchWrite => .amw
  | .addressMatchGeneralCallWrite => .amgc
  | .dataReceivedAck => .rxd data
  | .generalCallDataAck => .rxgc data
  | .stopOrRestart => .stop
  | .addressMatchRead => .amr
  | .dataTransmittedAck => .txa
  | .dataTransmittedNack => .txn
  | .lastDataAckPending => .txl

/-- Decoding an event word: total, "no status code is illegal" (rules R5, R62, R63). -/
def decodeEvent (m : CondMap) (w : BitVec 16) : Instr :=
  match condDecode m (eventStatus w) with
  | some k => conditionInstr k (eventData w)
  | none => .unk (eventStatus w)

/-- Why a word is no instruction. -/
inductive DecodeError where
  /-- A host word with `op = 3`, which rule R68 calls unused (log 9). -/
  | unusedHostOp
  deriving DecidableEq, Repr

/-- The `op` field of a host word, bits 8:7 (rule R68). -/
def hostOp (w : BitVec 9) : BitVec 2 := w.extractLsb' 7 2

/-- The `addr7` field of a host word, bits 6:0 (rule R68). -/
def hostAddr (w : BitVec 9) : SlaveAddr := w.extractLsb' 0 7

/-- Decoding a host word; `addr7` is ignored for RESET and SHUTDOWN (rule R68). -/
def decodeHost (w : BitVec 9) : Except DecodeError Instr :=
  if hostOp w = 0#2 then .ok .reset
  else if hostOp w = 1#2 then .ok (.init (hostAddr w))
  else if hostOp w = 2#2 then .ok .shdn
  else .error .unusedHostOp

/-- The decoder over both formats. -/
def decode (m : CondMap) : CodeWord → Except DecodeError Instr
  | .evt w => .ok (decodeEvent m w)
  | .host w => decodeHost w

/-- The event word of a condition; the code 0x00 stands in where the map has none, which `Instr.wellFormed` excludes. -/
def encodeCondition (m : CondMap) (k : BusCondition) (data : Byte) : CodeWord :=
  .evt (eventWord ((condCode m k).getD 0x00#8) data)

/-- The encoder; the data byte of an event without operand is written 00 (95_test_vectors.md, conventions), and so is the
unused `addr7` (rule R68). -/
def encode (m : CondMap) : Instr → CodeWord
  | .berr => encodeCondition m .busError 0x00#8
  | .amw => encodeCondition m .addressMatchWrite 0x00#8
  | .amgc => encodeCondition m .addressMatchGeneralCallWrite 0x00#8
  | .rxd b => encodeCondition m .dataReceivedAck b
  | .rxgc b => encodeCondition m .generalCallDataAck b
  | .stop => encodeCondition m .stopOrRestart 0x00#8
  | .amr => encodeCondition m .addressMatchRead 0x00#8
  | .txa => encodeCondition m .dataTransmittedAck 0x00#8
  | .txn => encodeCondition m .dataTransmittedNack 0x00#8
  | .txl => encodeCondition m .lastDataAckPending 0x00#8
  | .unk c => .evt (eventWord c 0x00#8)
  | .reset => .host (0#2 ++ 0#7)
  | .init a => .host (1#2 ++ a)
  | .shdn => .host (2#2 ++ 0#7)

/-- The width of format EVT in the opcode table. -/
def eventBits : Nat := 16

/-- The width of format HOST in the opcode table. -/
def hostBits : Nat := 9

/-- The table's numbering of a word as a word of the format with that width (log 13). -/
def tableWord (nbits w : Nat) : Option CodeWord :=
  if nbits = eventBits then some (.evt (BitVec.ofNat 16 w))
  else if nbits = hostBits then some (.host (BitVec.ofNat 9 w))
  else none

/-- What the decoder reads from a word of the opcode table, which is numbered under the default map (rule R62). -/
def decodeTableWord (nbits w : Nat) : Option Instr :=
  match tableWord nbits w with
  | none => none
  | some cw => (decode condDecodeDefault cw).toOption

end Sys2Proof
end

