-- ==== Sys2Proof/Machine/Defaults.lean ====
section
/-! DEFINITION. The default configuration: the "value" column of the table of 00_scope.md rule R6. -/

namespace Sys2Proof

/-- The spec's defaults: `COND_DECODE` of rule R62, `HOLD`, `WS_HI`, 0x00, 0x0000, hooks present (rules R6, R32, decisions
D3, D6, D7, D18; log 4). -/
def defaultConfig : Config where
  condDecode := condDecodeDefault
  taOnHiCapture := .hold
  wsReset := .hi
  ahReset := 0x00#8
  taReset := 0x0000#16
  hooks := true

end Sys2Proof
end

