-- ==== Sys2Proof/Machine/State.lean ====
section
/-! DEFINITION. The state of the decoder and of the peripheral's interface registers (10_state.md), the environment's inputs,
the output trace, and the reasons a step can stop. -/

namespace Sys2Proof.Machine

/-- The stored fields of `CTRL`, by name (rule R23). `CTRL.stop` is a strobe, "not stored state" (rule R28; log 12). -/
structure Ctrl where
  /-- "condition pending" (rule R24). -/
  pending  : Bool
  /-- "enable acknowledgment" (rule R25). -/
  ackEn    : Bool
  /-- "module enabled" (rule R26). -/
  moduleEn : Bool
  /-- "interrupt enabled" (rule R27). -/
  intEn    : Bool
  deriving DecidableEq, Repr

/-- `LINES`, the mode of the two bus lines (rule R30). -/
inductive Lines where
  | floating
  | pulledUpInput
  deriving DecidableEq, Repr

/-- The actions a step emits (00_scope.md, section 5). -/
inductive Action where
  /-- `set_address(a)`, an adapter call (rule R41). -/
  | setAddress (a : Addr)
  /-- `set_byte(v)`, an adapter call (rule R42). -/
  | setByte (v : Byte)
  /-- `get_byte()=v`, an adapter call with its answer (rule R43). -/
  | getByte (v : Byte)
  /-- `flush()`, an adapter call (rule R44). -/
  | flush
  /-- `DATA<-v`, the byte placed on the bus (rule R57). -/
  | dataWrite (v : Byte)
  /-- `ack_en<-1` (rules R102, R103). -/
  | ackEnSet
  /-- `stop`, the bus-stop/recovery strobe (rule R110). -/
  | stop
  /-- `hook.bus_error`, cause code 1 (rule R147). -/
  | hookBusError
  /-- `hook.unrecognized(c)`, cause code 2 (rule R147). -/
  | hookUnrecognized (c : Byte)
  /-- `hook.exit_request` (rules R88, R147). -/
  | hookExitRequest
  /-- `clear_pending` (rule R145). -/
  | clearPending
  deriving DecidableEq, Repr

/-- The handler's write of the control register (rule R144 (7)): it clears `pending` always, and in the same write it may pulse
`stop` (decision D14) and set `ack_en` (decision D13). -/
structure ControlWrite where
  stop  : Bool
  ackEn : Bool
  deriving DecidableEq, Repr

/-- What the handler touches inside one step, as rule R144 (decision D17) numbers it. -/
inductive Access where
  /-- (1) read `STATUS`. -/
  | readStatus
  /-- (2) read `DATA`. -/
  | readData
  /-- (3) write `WS`, `AH`, `TA` as the event rule says. -/
  | writeRegisters
  /-- (4) the adapter call. -/
  | adapterCall (call : Action)
  /-- (5) write `DATA` with the answer. -/
  | writeData (v : Byte)
  /-- (6) signal the hook. -/
  | signalHook (hook : Action)
  /-- (7) write the control register, once. -/
  | writeControl (w : ControlWrite)
  deriving DecidableEq, Repr

/-- What happens next outside the decoder, and when the decoder has its turn (rule R150; log 5). -/
inductive Input where
  /-- The peripheral detects a bus condition with this status code and current byte (rule R141). -/
  | condition (code data : Byte)
  /-- The decoder's turn: the handler takes the pending condition, if it may. -/
  | handlerTurn
  /-- The host firmware requests the operation of this host word, between two steps (rules R68, R178). -/
  | firmware (w : BitVec 9)
  deriving DecidableEq, Repr

/-- The whole state: the registers of 10_state.md, then the model's own fields. -/
@[ext]
structure State where
  /-- `WS` (rule R10). -/
  ws      : WriteState
  /-- `AH`, the stored high byte (rule R12). -/
  ah      : Byte
  /-- `TA`, TargetAddress (rule R13). -/
  ta      : Addr
  /-- `STATUS` (rule R21). -/
  status  : Byte
  /-- `DATA` (rule R22). -/
  data    : Byte
  /-- `CTRL` (rule R23). -/
  ctrl    : Ctrl
  /-- `SLA` (rule R29). -/
  sla     : Byte
  /-- `LINES` (rule R30). -/
  lines   : Lines
  /-- The configuration; no step writes it (rule R150; log 4). -/
  cfg     : Config
  /-- The peripheral's and the host firmware's next moves, in order (rule R163; log 5). -/
  inputs  : List Input
  /-- The adapter's next answers; after the last one an answer is a free value (rule R56; log 3). -/
  answers : List Byte
  /-- How many free values have been drawn (log 3). -/
  draws   : Nat
  /-- The output trace, oldest action first (rule R56). -/
  trace   : List Action
  /-- What the handler's steps touched, oldest access first (rule R144; log 11). -/
  accesses : List Access
  deriving DecidableEq, Repr

/-- Faults: none. "The decoder therefore raises no exception" (rule R140) and "No event is refused and none faults" (rule
R5), so the type has no constructor (log 19). -/
inductive Fault where
  deriving DecidableEq, Repr

/-- Why the machine has no step. -/
inductive Refusal where
  /-- Raised by an arm of `exec` whose instruction has no meaning yet; safe. No arm is left so. -/
  | notModelled (mnemonic : String)
  /-- Raised by INIT with the peripheral already enabled: "a model refuses it" (rule R121, decision D24); safe. -/
  | initializeWhileEnabled
  /-- Raised by `step` on a bus condition in disabled mode: "a model gives the peripheral no move in disabled mode" (rule
  R161, decision D27); safe. -/
  | peripheralDisabled
  /-- Raised by `step` on a bus condition while one is pending that the handler may not take (`CTRL.int_en = 0`): the
  peripheral raises nothing while `CTRL.pending = 1` (rules R24, R141) and the bus stays stalled (rule R175); no state with
  the mode invariant is such a state; safe. -/
  | busStalled
  /-- Raised by `step` on a host word with `op = 3`, which rule R68 calls unused (log 9); safe. -/
  | unusedHostOp
  /-- Raised by `step` when the inputs are exhausted and the handler has nothing to take: the run has ended, "the decoder has
  no step left to take" (rule R163; log 7); safe. -/
  | runEnded
  deriving DecidableEq, Repr

/-- What one step answers. -/
abbrev Outcome := Host.Outcome State Fault Refusal

/-- The state after power-on (rules R32, R160): every register of the table at its value, STATUS and DATA, which the table
leaves unspecified, at zero (log 1); the environment's inputs and the two records empty. -/
def State.reset : State where
  ws := defaultConfig.wsReset
  ah := defaultConfig.ahReset
  ta := defaultConfig.taReset
  status := 0x00#8
  data := 0x00#8
  ctrl := { pending := false, ackEn := false, moduleEn := false, intEn := false }
  sla := 0x00#8
  lines := .floating
  cfg := defaultConfig
  inputs := []
  answers := []
  draws := 0
  trace := []
  accesses := []

end Sys2Proof.Machine
end

