-- ==== Sys2Proof/Machine/Flags.lean ====
section
/-! DEFINITION. The five `CTRL` fields, the only flags there are (10_state.md rules R17, R23 to R28): every write of a field
that some rule makes, the firing condition of the handler, and the packed view. -/

namespace Sys2Proof.Machine

/-- All fields 0: after RESET and SHUTDOWN (rules R120, R124). -/
def Ctrl.disabled : Ctrl := { pending := false, ackEn := false, moduleEn := false, intEn := false }

/-- After INITIALIZE (rule R122). -/
def Ctrl.initialized : Ctrl := { pending := false, ackEn := true, moduleEn := true, intEn := true }

/-- `CTRL.pending <- 1`, at the raise (rule R141). -/
def Ctrl.setPending (c : Ctrl) : Ctrl := { c with pending := true }

/-- The control write of most events: `CTRL.pending <- 0` alone (rule R145). -/
def ControlWrite.clearOnly : ControlWrite := { stop := false, ackEn := false }

/-- The control write of BusError: the stop strobe with it (rules R28, R110, decision D14). -/
def ControlWrite.withStop : ControlWrite := { stop := true, ackEn := false }

/-- The control write at the end of a read: `CTRL.ack_en <- 1` with it (rules R102, R103, decision D13). -/
def ControlWrite.withAckEn : ControlWrite := { stop := false, ackEn := true }

/-- What the handler's control write stores: `pending` cleared, `ack_en` set where the write sets it, the strobe not stored
(rules R28, R144, R145). -/
def Ctrl.written (c : Ctrl) (w : ControlWrite) : Ctrl := { c with pending := false, ackEn := w.ackEn || c.ackEn }

/-- The handler fires iff all three are 1 (rule R142, decision D16). -/
def Ctrl.fires (c : Ctrl) : Bool := c.pending && c.intEn && c.moduleEn

/-- The requirement of the peripheral's raise (rule R141). -/
def Ctrl.mayRaise (c : Ctrl) : Bool := c.moduleEn && !c.pending

/-- Bits 7:5 are reserved and read as 0, and so does bit 4, the strobe `stop` (rules R23, R28). -/
def Ctrl.word (c : Ctrl) : Byte :=
  0#4 ++ BitVec.ofBool c.intEn ++ BitVec.ofBool c.moduleEn ++ BitVec.ofBool c.ackEn ++ BitVec.ofBool c.pending

/-- The stored fields a written word gives: writes to the reserved bits are ignored and the strobe is not stored (rules R23,
R28). -/
def Ctrl.ofWord (w : Byte) : Ctrl where
  pending := w.getLsbD 0
  ackEn := w.getLsbD 1
  moduleEn := w.getLsbD 2
  intEn := w.getLsbD 3

end Sys2Proof.Machine
end

