-- ==== Sys2Proof/Machine/Operands.lean ====
section
/-! DEFINITION. Operand assembly and the decoder's whole arithmetic (30_encoding.md rules R64 to R67), the high-byte capture
(40_write_events.md rule R84), and the views of the registers that have a packing. -/

namespace Sys2Proof.Machine

/-- `SENTINEL`, "all bits set" (rules R14, R67). -/
abbrev sentinel : Addr := 0xFFFF#16

/-- The target address of the two address bytes, high byte first: `AH ++ b` (rules R64, R85). -/
def assembleAddress (high low : Byte) : Addr := high ++ low

/-- `TA` after the capture of the high byte `b` (rule R84, decision D6). -/
def captureTarget (mode : HiCapture) (b : Byte) (ta : Addr) : Addr :=
  match mode with
  | .hold => ta
  | .zextLow => b.zeroExtend 16
  | .highHalf => b ++ ta.extractLsb' 0 8

/-- `(zext_8(a) << 1) | 1`: the address plus general-call recognition (rules R29, R65). -/
def slaveAddressWord (a : SlaveAddr) : Byte := (a.zeroExtend 8 <<< 1) ||| 0x01#8

/-- `SLA[7:1]`, the slave address (rule R29). -/
def slaveAddress (sla : Byte) : SlaveAddr := sla.extractLsb' 1 7

/-- `SLA[0]`, general-call recognition (rule R29). -/
def generalCallEnabled (sla : Byte) : Bool := sla.getLsbD 0

/-- `WS` as the 2-bit register it is in hardware (rule R10). -/
def writeStateCode : WriteState → BitVec 2
  | .hi => 0#2
  | .lo => 1#2
  | .data => 2#2

/-- `LINES` as one bit (rule R30). -/
def linesCode : Lines → BitVec 1
  | .floating => 0#1
  | .pulledUpInput => 1#1

/-- The cause code an error hook carries: 1 BusProtocolError, 2 UnrecognizedCondition (rules R140, R147, decision D19). No
other action reports an error. -/
def causeCode : Action → Option Nat
  | .hookBusError => some 1
  | .hookUnrecognized _ => some 2
  | .setAddress _ | .setByte _ | .getByte _ | .flush | .dataWrite _ | .ackEnSet | .stop | .hookExitRequest
  | .clearPending => none

end Sys2Proof.Machine
end

