-- ==== Sys2Proof/Machine/Ops.lean ====
section
/-! DEFINITION. The named operations of the machine: the two records, the adapter's four calls (20_memory.md), the interrupt that
invokes the handler and the return from it (60_exceptions.md), and what two events or host operations share. -/

namespace Sys2Proof.Machine

/-- Record actions at the end of the trace, in the order in which the event rules list them (rules R53, R56), and accesses at
the end of theirs, in the order of rule R144 (log 11). -/
def State.record (acts : List Action) (accs : List Access) (s : State) : State :=
  { s with trace := s.trace ++ acts, accesses := s.accesses ++ accs }

/-- What a hook records: itself when the hooks are present, nothing otherwise (rule R147, parameter `HOOKS`). -/
def hookActions (present : Bool) (a : Action) : List Action := if present then [a] else []

/-- Signal a hook: an observation that changes no register (rule R147). -/
def State.hook (a : Action) (s : State) : State :=
  s.record (hookActions s.cfg.hooks a) ((hookActions s.cfg.hooks a).map .signalHook)

/-! ### The adapter (rules R40 to R44) -/

/-- A call that the adapter does not answer. -/
def State.adapterCall (a : Action) (s : State) : State := s.record [a] [.adapterCall a]

/-- `set_address(a)` (rule R41). -/
def State.adapterSetAddress (a : Addr) (s : State) : State := s.adapterCall (.setAddress a)

/-- `set_byte(v)` (rule R42). -/
def State.adapterSetByte (v : Byte) (s : State) : State := s.adapterCall (.setByte v)

/-- `flush()` (rule R44). -/
def State.adapterFlush (s : State) : State := s.adapterCall .flush

/-- The byte the next `get_byte()` answers: the environment's next answer, a free value when it lists none (rule R56;
log 3). -/
def State.nextAnswer (s : State) : Byte :=
  match s.answers with
  | v :: _ => v
  | [] => Config.adapterAnswer s.draws

/-- `get_byte()=v`: the call, recorded with its answer, which is used up (rule R43). -/
def State.adapterGetByte (s : State) : State :=
  { s with
    answers := s.answers.tail
    draws := s.draws + 1
    trace := s.trace ++ [.getByte s.nextAnswer]
    accesses := s.accesses ++ [.adapterCall (.getByte s.nextAnswer)] }

/-! ### The interrupt: raise, fire, return (rules R141 to R145) -/

/-- `Peripheral.raise(c, d)` (rule R141). -/
def State.raise (code data : Byte) (s : State) : State :=
  { s with status := code, data := data, ctrl := s.ctrl.setPending }

/-- The handler takes the pending condition (rule R142). -/
def State.handlerFires (s : State) : Bool := s.ctrl.fires

/-- The event the handler finds: STATUS and DATA when it starts (rules R60, R143). -/
def State.pendingEvent (s : State) : Instr := decodeEvent s.cfg.condDecode (eventWord s.status s.data)

/-- The handler starts: it reads STATUS once (rules R143, R144 (1)). -/
def State.enter (s : State) : State := s.record [] [.readStatus]

/-- The handler starts on a data-received condition: it reads STATUS, then DATA, each once (rules R22, R144 (1), (2)). -/
def State.enterData (s : State) : State := s.record [] [.readStatus, .readData]

/-- The actions that end an event, as its rule lists them: `ack_en<-1` where the write sets it, then `clear_pending` (rules
R102, R103, R145). The strobe of BusError stands earlier in the list of rule R110. -/
def ControlWrite.closingActions (w : ControlWrite) : List Action :=
  if w.ackEn then [.ackEnSet, .clearPending] else [.clearPending]

/-- The return: one write of the control register, the last access of every event, whose last action clears the pending flag
(rules R144 (7), R145). -/
def State.controlWrite (w : ControlWrite) (s : State) : State :=
  { s with
    ctrl := s.ctrl.written w
    trace := s.trace ++ w.closingActions
    accesses := s.accesses ++ [.writeControl w] }

/-! ### What events share -/

/-- A write address match: only `WS` is written (rules R80 to R82). -/
def State.startWrite (s : State) : State := { s with ws := .hi, accesses := s.accesses ++ [.writeRegisters] }

/-- A data event in `WS_HI` (rule R84). -/
def State.captureHigh (b : Byte) (s : State) : State :=
  { s with
    ws := .lo
    ah := b
    ta := captureTarget s.cfg.taOnHiCapture b s.ta
    accesses := s.accesses ++ [.writeRegisters] }

/-- The register part of a data event in `WS_LO` (rule R85). -/
def State.setTarget (a : Addr) (s : State) : State :=
  { s with ws := .data, ta := a, accesses := s.accesses ++ [.writeRegisters] }

/-- A data event in `WS_LO`: the sentinel suppresses the call (rules R85, R67). -/
def State.assembleLow (b : Byte) (s : State) : State :=
  let a := assembleAddress s.ah b
  if a = sentinel then s.setTarget a else (s.setTarget a).adapterSetAddress a

/-- A received data byte, interpreted by the value `WS` had when the step began (rules R83, R89). -/
def State.dataEvent (b : Byte) (s : State) : State :=
  match s.ws with
  | .hi => s.captureHigh b
  | .lo => s.assembleLow b
  | .data => s.adapterSetByte b

/-- A stop or restart: the exit signal for the sentinel, which is a hook and nothing else, `flush()` otherwise (rules R87,
R88). -/
def State.commitOrExit (s : State) : State :=
  if s.ta = sentinel then s.hook .hookExitRequest else s.adapterFlush

/-- `DATA <- v`: the byte placed on the bus (rule R57). -/
def State.writeData (v : Byte) (s : State) : State :=
  { s with data := v, trace := s.trace ++ [.dataWrite v], accesses := s.accesses ++ [.writeData v] }

/-- `get_byte()`, and its answer to DATA (rules R100, R101). -/
def State.supplyByte (s : State) : State := s.adapterGetByte.writeData s.nextAnswer

/-- `pulse CTRL.stop` in the action list, where rule R110 has it: before the hook. In the accesses the strobe is part of the one
control write that follows (rule R144 (7), decision D14; log 11). -/
def State.listStop (s : State) : State := s.record [.stop] []

/-! ### What host operations share -/

/-- The decoder's own registers at their construction values (rules R120, R122). -/
def State.construct (s : State) : State :=
  { s with ws := s.cfg.wsReset, ah := s.cfg.ahReset, ta := s.cfg.taReset }

/-- The disabled mode of the peripheral (rules R120, R124, R149). -/
def State.disable (s : State) : State :=
  { s with ctrl := Ctrl.disabled, sla := 0x00#8, lines := .floating }

/-- The enabled mode of the peripheral, at a slave address (rules R122, R149). -/
def State.enable (a : SlaveAddr) (s : State) : State :=
  { s with ctrl := Ctrl.initialized, sla := slaveAddressWord a, lines := .pulledUpInput }

/-- STATUS and DATA become unspecified: free values (rule R120; log 2). -/
def State.forgetBus (s : State) : State :=
  { s with status := Config.unspecifiedStatus s.draws, data := Config.unspecifiedData s.draws, draws := s.draws + 1 }

end Sys2Proof.Machine
end

