-- ==== Sys2Proof/Machine/ErrorEvents.lean ====
section
/-! DEFINITION. The error-path events (42_error_events.md): both causes are swallowed (60_exceptions.md rule R140). -/

namespace Sys2Proof.Machine

/-- BERR, BusError (rule R110): the hook, then one control write with the strobe (rule R144 (6), (7)); the action list is that
of rule R110. -/
def execBerr (s : State) : Outcome := .next ((s.enter.listStop.hook .hookBusError).controlWrite .withStop)

/-- UNK, an unrecognised condition (rule R111). -/
def execUnk (c : Byte) (s : State) : Outcome := .next ((s.enter.hook (.hookUnrecognized c)).controlWrite .clearOnly)

end Sys2Proof.Machine
end

