-- ==== Sys2Proof/Machine/HostOps.lean ====
section
/-! DEFINITION. The host operations (43_host_operations.md). They emit no action (95_test_vectors.md P6). -/

namespace Sys2Proof.Machine

/-- RESET, power-on (rule R120). -/
def execReset (s : State) : Outcome := .next s.construct.disable.forgetBus

/-- INIT, INITIALIZE from disabled mode (rule R122); refused when already enabled (rule R121). -/
def execInit (a : SlaveAddr) (s : State) : Outcome :=
  if s.ctrl.moduleEn then .refused .initializeWhileEnabled else .next (s.construct.enable a)

/-- SHDN, SHUTDOWN (rule R124): `WS`, `AH`, `TA` are untouched. -/
def execShdn (s : State) : Outcome := .next s.disable

end Sys2Proof.Machine
end

