-- ==== Sys2Proof/Machine/ReadEvents.lean ====
section
/-! DEFINITION. The read-path events (41_read_events.md). -/

namespace Sys2Proof.Machine

/-- AMR, AddressMatchRead (rule R100); `WS` is not written (90_conflicts.md C2). -/
def execAmr (s : State) : Outcome := .next (s.enter.supplyByte.controlWrite .clearOnly)

/-- TXA, DataTransmittedAck (rule R101). -/
def execTxa (s : State) : Outcome := .next (s.enter.supplyByte.controlWrite .clearOnly)

/-- TXN, DataTransmittedNack (rule R102). -/
def execTxn (s : State) : Outcome := .next (s.enter.controlWrite .withAckEn)

/-- TXL, LastDataAckPending (rule R103). -/
def execTxl (s : State) : Outcome := .next (s.enter.controlWrite .withAckEn)

end Sys2Proof.Machine
end

