-- ==== Sys2Proof/Machine/WriteEvents.lean ====
section
/-! DEFINITION. The write-path events (40_write_events.md). -/

namespace Sys2Proof.Machine

/-- AMW, AddressMatchWrite (rule R80). -/
def execAmw (s : State) : Outcome := .next (s.enter.startWrite.controlWrite .clearOnly)

/-- AMGC, AddressMatchGeneralCallWrite (rules R81, R82). -/
def execAmgc (s : State) : Outcome := .next (s.enter.startWrite.controlWrite .clearOnly)

/-- RXD, DataReceivedAck (rules R83 to R86). -/
def execRxd (b : Byte) (s : State) : Outcome := .next ((s.enterData.dataEvent b).controlWrite .clearOnly)

/-- RXGC, GeneralCallDataAck (rules R89, R82). -/
def execRxgc (b : Byte) (s : State) : Outcome := .next ((s.enterData.dataEvent b).controlWrite .clearOnly)

/-- STOP, StopOrRestart (rules R87, R88). -/
def execStop (s : State) : Outcome := .next (s.enter.commitOrExit.controlWrite .clearOnly)

end Sys2Proof.Machine
end

