-- ==== Sys2Proof/Machine/Dispatch.lean ====
section
/-! DEFINITION. One arm per constructor of `Instr`. -/

namespace Sys2Proof.Machine

def exec (i : Instr) (s : State) : Host.Outcome State Fault Refusal :=
  match i with
  | .berr => Sys2Proof.Machine.execBerr s
  | .amw => Sys2Proof.Machine.execAmw s
  | .amgc => Sys2Proof.Machine.execAmgc s
  | .rxd b => Sys2Proof.Machine.execRxd b s
  | .rxgc b => Sys2Proof.Machine.execRxgc b s
  | .stop => Sys2Proof.Machine.execStop s
  | .amr => Sys2Proof.Machine.execAmr s
  | .txa => Sys2Proof.Machine.execTxa s
  | .txn => Sys2Proof.Machine.execTxn s
  | .txl => Sys2Proof.Machine.execTxl s
  | .unk c => Sys2Proof.Machine.execUnk c s
  | .reset => Sys2Proof.Machine.execReset s
  | .init a => Sys2Proof.Machine.execInit a s
  | .shdn => Sys2Proof.Machine.execShdn s

end Sys2Proof.Machine
end

