-- ==== Sys2Proof/Machine/Turns.lean ====
section
/-! DEFINITION. The turns of the three agents that take steps (60_exceptions.md rule R150): the decoder's handler, the
peripheral's raise, the host firmware's operation. -/

namespace Sys2Proof.Machine

/-- The handler performs the event it finds in STATUS and DATA (rule R143). -/
def handle (s : State) : Outcome := exec s.pendingEvent s

/-- The peripheral's raise, in the states where it has that move (rules R141, R161). -/
def raiseTurn (code data : Byte) (s : State) : Outcome :=
  if s.ctrl.mayRaise then .next (s.raise code data)
  else if s.ctrl.moduleEn then .refused .busStalled
  else .refused .peripheralDisabled

/-- The host firmware's operation (rules R68, R178). -/
def firmwareTurn (w : BitVec 9) (s : State) : Outcome :=
  match decodeHost w with
  | .ok i => exec i s
  | .error .unusedHostOp => .refused .unusedHostOp

/-- The decoder's turn with nothing that fires is idle: no handler runs and no register changes (rule R142). -/
def handlerTurn (s : State) : Outcome := if s.handlerFires then handle s else .next s

end Sys2Proof.Machine
end

