-- ==== Sys2Proof/Machine/Step.lean ====
section
/-! DEFINITION. One step: of the peripheral (a raise), of the decoder (the pending event), or of the host firmware (a host
operation), as the inputs and `CTRL` say (60_exceptions.md rules R141 to R150; log 5). -/

namespace Sys2Proof.Machine

/-- One step. A condition on the wires while another is pending is held back until the handler has taken that one (rules
R148, R175; log 6); a host operation comes between two steps, also between a raise and the handler (rule R178). -/
def step (s : State) : Host.Outcome State Fault Refusal :=
  match s.inputs with
  | [] => if s.handlerFires then handle s else .refused .runEnded
  | .condition code data :: rest =>
    if s.handlerFires then handle s else raiseTurn code data { s with inputs := rest }
  | .handlerTurn :: rest => handlerTurn { s with inputs := rest }
  | .firmware w :: rest => firmwareTurn w { s with inputs := rest }

/-- `s` with an opcode-table word where the next step takes its instruction from (log 15). An event: raised and pending in an
enabled peripheral, the decoder's turn next, under the default map the table is numbered in. A host word: the host
firmware's next request. -/
def State.withFetchWord (s : State) (nbits w : Nat) : State :=
  match tableWord nbits w with
  | none => s
  | some (.evt e) =>
    { s with
      status := eventStatus e
      data := eventData e
      ctrl := { s.ctrl with pending := true, moduleEn := true, intEn := true }
      cfg := { s.cfg with condDecode := condDecodeDefault }
      inputs := .handlerTurn :: s.inputs }
  | some (.host h) => { s with inputs := .firmware h :: s.inputs }

end Sys2Proof.Machine
end

