-- ==== Sys2Proof/Safety.lean ====
section
/-! DEFINITION. The terms claims use: the adapter calls of a trace, sequences of events and transactions, and the invariants of
a safe run. -/

namespace Sys2Proof.Machine

/-- `(zext_16(B_hi) << 8) | zext_16(B_lo)`, the address two bytes stand for, in the words of rule R64. -/
def targetOf (high low : Byte) : Addr := (high.zeroExtend 16 <<< 8) ||| low.zeroExtend 16

/-! ### Traces -/

/-- The action is a call of the adapter (rule R40). -/
@[simp] def Action.isAdapterCall : Action → Bool
  | .setAddress _ | .setByte _ | .getByte _ | .flush => true
  | .dataWrite _ | .ackEnSet | .stop | .hookBusError | .hookUnrecognized _ | .hookExitRequest | .clearPending => false

/-- The action is one of the three hooks (rule R147). -/
@[simp] def Action.isHook : Action → Bool
  | .hookBusError | .hookUnrecognized _ | .hookExitRequest => true
  | .setAddress _ | .setByte _ | .getByte _ | .flush | .dataWrite _ | .ackEnSet | .stop | .clearPending => false

/-- The operand of a `set_address`. -/
@[simp] def Action.addressOperand : Action → Option Addr
  | .setAddress a => some a
  | .setByte _ | .getByte _ | .flush | .dataWrite _ | .ackEnSet | .stop | .hookBusError | .hookUnrecognized _
  | .hookExitRequest | .clearPending => none

/-- The number rule R144 gives the access. -/
@[simp] def Access.phase : Access → Nat
  | .readStatus => 1
  | .readData => 2
  | .writeRegisters => 3
  | .adapterCall _ => 4
  | .writeData _ => 5
  | .signalHook _ => 6
  | .writeControl _ => 7

/-- The action an access shows before the control write: a call, a write of DATA, a hook. -/
@[simp] def Access.shown : Access → Option Action
  | .adapterCall a => some a
  | .writeData v => some (.dataWrite v)
  | .signalHook a => some a
  | .readStatus | .readData | .writeRegisters | .writeControl _ => none

/-- The access is the signal of a hook. -/
@[simp] def Access.isHook : Access → Bool
  | .signalHook _ => true
  | .readStatus | .readData | .writeRegisters | .adapterCall _ | .writeData _ | .writeControl _ => false

/-- The action is an effect of the control write (rules R102, R103, R110, R145). -/
@[simp] def Action.isControl : Action → Bool
  | .ackEnSet | .stop | .clearPending => true
  | .setAddress _ | .setByte _ | .getByte _ | .flush | .dataWrite _ | .hookBusError | .hookUnrecognized _
  | .hookExitRequest => false

/-- The byte a write of DATA places on the bus (rule R57). -/
@[simp] def Action.placedByte : Action → Option Byte
  | .dataWrite v => some v
  | .setAddress _ | .setByte _ | .getByte _ | .flush | .ackEnSet | .stop | .hookBusError | .hookUnrecognized _
  | .hookExitRequest | .clearPending => none

/-- What the adapter sees of a trace (rules R53, R56). -/
def adapterCalls (trace : List Action) : List Action := trace.filter Action.isAdapterCall

/-- The operand of the most recent `set_address` (rule R47). -/
def lastSetAddress (trace : List Action) : Option Addr := (trace.filterMap Action.addressOperand).getLast?

/-! ### Sequences -/

/-- The instructions one after the other, as long as each answers a next state. -/
def execAll : List Instr → State → Outcome
  | [], s => .next s
  | i :: rest, s =>
    match exec i s with
    | .next t => execAll rest t
    | .fault r => .fault r
    | .refused r => .refused r

/-- `WRITE a, b0, ..., bn-1` (rule R69). -/
def pseudoWrite (a : Addr) (bytes : List Byte) : List Instr :=
  .amw :: .rxd (a.extractLsb' 8 8) :: .rxd (a.extractLsb' 0 8) :: (bytes.map .rxd ++ [.stop])

/-- `GCWRITE a, b0, ..., bn-1` (rule R69). -/
def pseudoGcWrite (a : Addr) (bytes : List Byte) : List Instr :=
  .amgc :: .rxgc (a.extractLsb' 8 8) :: .rxgc (a.extractLsb' 0 8) :: (bytes.map .rxgc ++ [.stop])

/-- `SEEK a` (rule R69). -/
def pseudoSeek (a : Addr) : List Instr := pseudoWrite a []

/-- `EXIT` (rule R69). -/
def pseudoExit : List Instr := pseudoSeek 0xFFFF#16

/-- `READ n`, for n >= 1 (rule R69). -/
def pseudoRead (n : Nat) : List Instr := .amr :: (List.replicate (n - 1) .txa ++ [.txn])

/-- The inputs by which each of these conditions (status code, data byte) is raised and then handled. -/
def eventInputs (events : List (Byte × Byte)) : List Input :=
  events.flatMap fun e => [.condition e.1 e.2, .handlerTurn]

/-- The general-call events as the directed ones (rule R82). -/
def directed : Instr → Instr
  | .amgc => .amw
  | .rxgc b => .rxd b
  | .amw => .amw
  | .rxd b => .rxd b
  | .berr => .berr
  | .stop => .stop
  | .amr => .amr
  | .txa => .txa
  | .txn => .txn
  | .txl => .txl
  | .unk c => .unk c
  | .reset => .reset
  | .init a => .init a
  | .shdn => .shdn

/-- The code stands for one of the two write address matches. -/
def isWriteMatchCode (m : CondMap) (code : Byte) : Prop :=
  condDecode m code = some .addressMatchWrite ∨ condDecode m code = some .addressMatchGeneralCallWrite

/-- The code stands for one of the two data-received conditions. -/
def isDataCode (m : CondMap) (code : Byte) : Prop :=
  condDecode m code = some .dataReceivedAck ∨ condDecode m code = some .generalCallDataAck

/-- The code stands for one of the two conditions that end a read (rules R102, R103). -/
def isReadEndCode (m : CondMap) (code : Byte) : Prop :=
  condDecode m code = some .dataTransmittedNack ∨ condDecode m code = some .lastDataAckPending

/-- A peripheral that can raise, and be handled, at once: enabled, nothing pending (rules R141, R142). -/
def State.ready (s : State) : Prop :=
  s.ctrl.moduleEn = true ∧ s.ctrl.intEn = true ∧ s.ctrl.pending = false

/-! ### Invariants -/

/-- The two modes (rules R142, R149, R151): the enables agree, only an enabled peripheral has a condition pending, and the
slave address register and the lines are those of the mode. -/
def ModeConsistent (s : State) : Prop :=
  s.ctrl.intEn = s.ctrl.moduleEn ∧ s.ctrl.ackEn = s.ctrl.moduleEn ∧
  (s.ctrl.pending = true → s.ctrl.moduleEn = true) ∧
  (s.ctrl.moduleEn = true → generalCallEnabled s.sla = true ∧ s.lines = .pulledUpInput) ∧
  (s.ctrl.moduleEn = false → s.sla = 0x00#8 ∧ s.lines = .floating)

/-- "the address 0xFFFF is never passed to the adapter" (rule R46). -/
def SentinelNeverAddressed (s : State) : Prop := Action.setAddress 0xFFFF#16 ∉ s.trace

/-- Once an address is assembled, and unless it is the sentinel, it is the operand of the most recent `set_address` (rule
R47). -/
def TargetIsLastAddress (s : State) : Prop :=
  s.cfg.wsReset = .hi ∧ (s.ws = .data → s.ta ≠ 0xFFFF#16 → lastSetAddress s.trace = some s.ta)

/-- What is left to do, in turns: two for each input, one for a pending condition (rule R163). -/
def State.turnsLeft (s : State) : Nat := 2 * s.inputs.length + (if s.ctrl.pending then 1 else 0)

end Sys2Proof.Machine
end

