-- ==== Sys2Proof/WellFormed.lean ====
section
/-! DEFINITION. Which instructions a decoder with a given `COND_DECODE` can be given (30_encoding.md rules R62, R63). Operand
ranges need no check: a data byte has 8 bits and a slave address 7 by their types (rule R65, decision D25). -/

namespace Sys2Proof

/-- Some status code stands for the condition. -/
def CondMap.reports (m : CondMap) (k : BusCondition) : Bool := (condCode m k).isSome

/-- An event of a condition needs a code for it; an unrecognised event needs a code that the map names no condition for. -/
def Instr.wellFormed (m : CondMap) : Instr → Bool
  | .berr => m.reports .busError
  | .amw => m.reports .addressMatchWrite
  | .amgc => m.reports .addressMatchGeneralCallWrite
  | .rxd _ => m.reports .dataReceivedAck
  | .rxgc _ => m.reports .generalCallDataAck
  | .stop => m.reports .stopOrRestart
  | .amr => m.reports .addressMatchRead
  | .txa => m.reports .dataTransmittedAck
  | .txn => m.reports .dataTransmittedNack
  | .txl => m.reports .lastDataAckPending
  | .unk c => (condDecode m c).isNone
  | .reset => true
  | .init _ => true
  | .shdn => true

end Sys2Proof
end

