-- ==== Sys2Proof/Certificates/Slice0/Obligations.lean ====
section
/-! DEFINITION. The statements for the provers. A record update says the frame as well: every field it does not name is
unchanged. A statement whose rule rests on a decision of the spec (D<n>) or of the model (log <n>) names it. -/

open Sys2Proof Sys2Proof.Machine

/-! ### Write-path events -/

/-- Rules R80, R81: a write address match writes `WS` and clears the pending flag, and nothing else. The accesses are in the
order of R144 (decision D17, log 11). -/
def Obligations.WriteMatchRestartsTheAddress : Prop :=
  ∀ (s : State) (i : Instr), i = .amw ∨ i = .amgc →
    exec i s = .next { s with
      ws := .hi
      ctrl := { s.ctrl with pending := false }
      trace := s.trace ++ [.clearPending]
      accesses := s.accesses ++ [.readStatus, .writeRegisters, .writeControl .clearOnly] }

/-- Rule R84 under the three settings of `TA_ON_HI_CAPTURE` (the spec's decision D6). The accesses are in the order of R144
(decision D17, log 11). -/
def Obligations.HighByteIsCaptured : Prop :=
  ∀ (s : State) (b : Byte) (i : Instr), i = .rxd b ∨ i = .rxgc b → s.ws = .hi →
    exec i s = .next { s with
      ws := .lo
      ah := b
      ta := match s.cfg.taOnHiCapture with
        | .hold => s.ta
        | .zextLow => b.zeroExtend 16
        | .highHalf => (s.ta &&& 0x00FF#16) ||| (b.zeroExtend 16 <<< 8)
      ctrl := { s.ctrl with pending := false }
      trace := s.trace ++ [.clearPending]
      accesses := s.accesses ++ [.readStatus, .readData, .writeRegisters, .writeControl .clearOnly] }

/-- Rule R85: big-endian assembly, and `set_address` unless the address is the sentinel. The accesses, registers before the
call and one control write last, are those of R144 (decision D17, log 11). -/
def Obligations.LowByteAssemblesTheAddress : Prop :=
  ∀ (s : State) (b : Byte) (i : Instr), i = .rxd b ∨ i = .rxgc b → s.ws = .lo →
    exec i s = .next { s with
      ws := .data
      ta := targetOf s.ah b
      ctrl := { s.ctrl with pending := false }
      trace := s.trace ++
        if s.ah = 0xFF#8 ∧ b = 0xFF#8 then [.clearPending]
        else [.setAddress (targetOf s.ah b), .clearPending]
      accesses := s.accesses ++
        if s.ah = 0xFF#8 ∧ b = 0xFF#8 then [.readStatus, .readData, .writeRegisters, .writeControl .clearOnly]
        else [.readStatus, .readData, .writeRegisters, .adapterCall (.setAddress (targetOf s.ah b)),
          .writeControl .clearOnly] }

/-- Rule R86: one `set_byte` for each byte received while streaming, whatever `TA` holds. The accesses, the two reads, the
call and one control write, are those of R144 (decision D17, log 11). -/
def Obligations.StreamedByteGoesToSetByte : Prop :=
  ∀ (s : State) (b : Byte) (i : Instr), i = .rxd b ∨ i = .rxgc b → s.ws = .data →
    exec i s = .next { s with
      ctrl := { s.ctrl with pending := false }
      trace := s.trace ++ [.setByte b, .clearPending]
      accesses := s.accesses ++ [.readStatus, .readData, .adapterCall (.setByte b), .writeControl .clearOnly] }

/-- Rules R87, R88: `flush()`, or for the sentinel the exit signal, whose only trace is a hook (decision D18). The accesses
are in the order of R144 (decision D17, log 11). -/
def Obligations.StopFlushesOrSignalsExit : Prop :=
  ∀ s : State,
    (s.ta ≠ 0xFFFF#16 → exec .stop s = .next { s with
      ctrl := { s.ctrl with pending := false }
      trace := s.trace ++ [.flush, .clearPending]
      accesses := s.accesses ++ [.readStatus, .adapterCall .flush, .writeControl .clearOnly] }) ∧
    (s.ta = 0xFFFF#16 → exec .stop s = .next { s with
      ctrl := { s.ctrl with pending := false }
      trace := s.trace ++ if s.cfg.hooks then [.hookExitRequest, .clearPending] else [.clearPending]
      accesses := s.accesses ++ if s.cfg.hooks then [.readStatus, .signalHook .hookExitRequest, .writeControl .clearOnly]
        else [.readStatus, .writeControl .clearOnly] })

/-- Rule R64: two data bytes after a write address match give `(B_hi << 8) | B_lo`, whatever the configuration. -/
def Obligations.TwoAddressBytesAssembleBigEndian : Prop :=
  ∀ (s : State) (hi lo : Byte) (m h l : Instr),
    m = .amw ∨ m = .amgc → h = .rxd hi ∨ h = .rxgc hi → l = .rxd lo ∨ l = .rxgc lo →
    ∃ t, execAll [m, h, l] s = .next t ∧ t.ta = targetOf hi lo ∧
      t.ta.toNat = hi.toNat * 256 + lo.toNat ∧ t.ah = hi ∧ t.ws = .data

/-- Rule R82: every event sequence does the same when general-call events stand for the directed ones. -/
def Obligations.GeneralCallIsTreatedAsDirected : Prop :=
  ∀ (is : List Instr) (s : State), execAll (is.map directed) s = execAll is s

/-! ### Read-path events -/

/-- Rules R100, R101, R57: one `get_byte()`, its answer in DATA, then the pending flag. The answer is the environment's next
one, and a free value where it lists none (log 3). The accesses are in the order of R144 (decision D17, log 11). -/
def Obligations.ReadEventSuppliesOneByte : Prop :=
  ∀ (s : State) (i : Instr), i = .amr ∨ i = .txa →
    exec i s = .next { s with
      data := s.nextAnswer
      answers := s.answers.tail
      draws := s.draws + 1
      ctrl := { s.ctrl with pending := false }
      trace := s.trace ++ [.getByte s.nextAnswer, .dataWrite s.nextAnswer, .clearPending]
      accesses := s.accesses ++ [.readStatus, .adapterCall (.getByte s.nextAnswer), .writeData s.nextAnswer,
        .writeControl .clearOnly] } ∧
    ∀ v rest, s.answers = v :: rest → s.nextAnswer = v

/-- Rules R102, R103: acknowledgment is re-armed, no adapter call. That `ack_en` is set and `pending` cleared by one control
write is R144 with decisions D13 and D17 (logs 11, 22). -/
def Obligations.EndOfReadRearmsAcknowledgment : Prop :=
  ∀ (s : State) (i : Instr), i = .txn ∨ i = .txl →
    exec i s = .next { s with
      ctrl := { s.ctrl with pending := false, ackEn := true }
      trace := s.trace ++ [.ackEnSet, .clearPending]
      accesses := s.accesses ++ [.readStatus, .writeControl .withAckEn] }

/-! ### Error-path events -/

/-- Rule R110: the stop strobe (decision D14) and a hook (decision D18), no register but `CTRL.pending`; the action list is
that of R110, and the accesses are those of R144 (decision D17): the hook, then one control write that pulses `stop` and clears
`pending` (log 11). -/
def Obligations.BusErrorOnlyStrobes : Prop :=
  ∀ s : State, exec .berr s = .next { s with
    ctrl := { s.ctrl with pending := false }
    trace := s.trace ++ if s.cfg.hooks then [.stop, .hookBusError, .clearPending] else [.stop, .clearPending]
    accesses := s.accesses ++ if s.cfg.hooks then [.readStatus, .signalHook .hookBusError, .writeControl .withStop]
      else [.readStatus, .writeControl .withStop] }

/-- Rule R111: nothing but the pending flag and a hook (decision D18). The accesses are in the order of R144 (decision D17,
log 11). -/
def Obligations.UnrecognizedChangesNothing : Prop :=
  ∀ (s : State) (c : Byte), exec (.unk c) s = .next { s with
    ctrl := { s.ctrl with pending := false }
    trace := s.trace ++ if s.cfg.hooks then [.hookUnrecognized c, .clearPending] else [.clearPending]
    accesses := s.accesses ++ if s.cfg.hooks then [.readStatus, .signalHook (.hookUnrecognized c), .writeControl .clearOnly]
      else [.readStatus, .writeControl .clearOnly] }

/-- Rule R171, derived by the spec: after a bus error a data event goes on where the address capture stood. -/
def Obligations.BusErrorLeavesStaleState : Prop :=
  ∀ (s : State) (h l x : Byte),
    (∃ t, execAll [.amw, .rxd h, .berr] s = .next t ∧ t.ws = .lo ∧ t.ah = h ∧
      ∃ u, exec (.rxd l) t = .next u ∧ u.ws = .data ∧ u.ta = targetOf h l) ∧
    (∃ t, execAll [.amw, .rxd h, .rxd l, .rxd x, .berr] s = .next t ∧ t.ws = .data ∧ t.ta = targetOf h l ∧
      ∃ u, exec .stop t = .next u ∧ (targetOf h l ≠ 0xFFFF#16 → u.trace = t.trace ++ [.flush, .clearPending]))

/-! ### Host operations -/

/-- Rule R120 (the spec's decision D7): RESET from every state; STATUS and DATA are left some value (log 2). -/
def Obligations.ResetConstructsAndDisables : Prop :=
  ∀ s : State, ∃ st d, exec .reset s = .next { s with
    ws := s.cfg.wsReset
    ah := s.cfg.ahReset
    ta := s.cfg.taReset
    status := st
    data := d
    ctrl := { pending := false, ackEn := false, moduleEn := false, intEn := false }
    sla := 0x00#8
    lines := .floating
    draws := s.draws + 1 }

/-- Rules R32, R160 (decision D7): the state after power-on is what RESET produces with the default parameters, in every
register but STATUS and DATA (log 1, log 2). -/
def Obligations.PowerOnStateIsWhatResetLeaves : Prop :=
  ∀ s : State, s.cfg = State.reset.cfg → ∃ t, exec .reset s = .next t ∧
    t.ws = .hi ∧ t.ah = 0x00#8 ∧ t.ta = 0x0000#16 ∧ t.ctrl.word = 0x00#8 ∧ t.sla = 0x00#8 ∧ t.lines = .floating ∧
    State.reset.ws = t.ws ∧ State.reset.ah = t.ah ∧ State.reset.ta = t.ta ∧ State.reset.ctrl = t.ctrl ∧
    State.reset.sla = t.sla ∧ State.reset.lines = t.lines

/-- Rule R122 (decisions D8, D11, D15) from disabled mode, rule R121 (decision D24) from enabled mode. -/
def Obligations.InitializeEnablesFromDisabledMode : Prop :=
  ∀ (s : State) (a : SlaveAddr),
    (s.ctrl.moduleEn = false → exec (.init a) s = .next { s with
      ws := s.cfg.wsReset
      ah := s.cfg.ahReset
      ta := s.cfg.taReset
      sla := (a.zeroExtend 8 <<< 1) ||| 0x01#8
      lines := .pulledUpInput
      ctrl := { pending := false, ackEn := true, moduleEn := true, intEn := true } }) ∧
    (s.ctrl.moduleEn = true → exec (.init a) s = .refused .initializeWhileEnabled)

/-- Rule R124 (decisions D9, D15): in every state; `WS`, `AH`, `TA` are unchanged and no adapter call is made. -/
def Obligations.ShutdownDisables : Prop :=
  ∀ s : State, exec .shdn s = .next { s with
    ctrl := { pending := false, ackEn := false, moduleEn := false, intEn := false }
    sla := 0x00#8
    lines := .floating }

/-- The packed registers of rules R23, R29, R65 (decisions D10, D11): `CTRL` reads 0x0E after INITIALIZE, 0x0F while its
first condition is pending, 0x00 after SHUTDOWN; the two fields of `SLA` are the address and general-call recognition. -/
def Obligations.PackedRegistersAfterHostOperations : Prop :=
  ∀ (s : State) (a : SlaveAddr) (c d : Byte), s.ctrl.moduleEn = false →
    ∃ t, exec (.init a) s = .next t ∧ t.ctrl.word = 0x0E#8 ∧ (t.raise c d).ctrl.word = 0x0F#8 ∧
      slaveAddress t.sla = a ∧ generalCallEnabled t.sla = true ∧ t.sla.toNat = 2 * a.toNat + 1 ∧
      ∃ u, exec .shdn t = .next u ∧ u.ctrl.word = 0x00#8 ∧ u.sla = 0x00#8

/-- Of a packed `CTRL` word only the four stored fields are kept: bits 7:5 read 0 and their writes are ignored (rule R23,
decision D10), and bit 4, the stop strobe, is not stored and reads 0 (rule R28, decision D14, log 12). The action that writing
1 to it emits is that of BERR (`BusErrorOnlyStrobes`), and no part of this statement. -/
def Obligations.ControlWordKeepsStoredFieldsOnly : Prop :=
  (∀ w : Byte, (Ctrl.ofWord w).word = w &&& 0x0F#8) ∧ ∀ c : Ctrl, Ctrl.ofWord c.word = c

/-- Rule R123, derived by the spec from R120, R122, R124: SHUTDOWN and INITIALIZE give, in every register but STATUS and
DATA, the state a fresh INITIALIZE gives after RESET. -/
def Obligations.ShutdownInitializeEqualsFreshInitialize : Prop :=
  ∀ (s : State) (a : SlaveAddr), ∃ t u, execAll [.shdn, .init a] s = .next t ∧ execAll [.reset, .init a] s = .next u ∧
    t = { u with status := t.status, data := t.data, draws := t.draws } ∧ t.status = s.status ∧ t.data = s.data

/-- Rule R172, derived by the spec: for every `TA_RESET`, the first stop after INITIALIZE tests that value. -/
def Obligations.FirstStopTestsTheResetTarget : Prop :=
  ∀ (s : State) (a : SlaveAddr), s.ctrl.moduleEn = false → ∃ t, execAll [.init a, .stop] s = .next t ∧
    adapterCalls t.trace = adapterCalls s.trace ++ if s.cfg.taReset = 0xFFFF#16 then [] else [.flush]

/-! ### Steps of the agents -/

/-- Rules R141, R161 (decisions D20, D27): when the peripheral raises, and that it has no other move. The order in which the
agents move is the inputs' (log 5). -/
def Obligations.PeripheralRaisesOneCondition : Prop :=
  ∀ (s : State) (c d : Byte) (rest : List Input), s.inputs = .condition c d :: rest →
    (s.ctrl.moduleEn = true → s.ctrl.pending = false → step s = .next { s with
      status := c
      data := d
      ctrl := { s.ctrl with pending := true }
      inputs := rest }) ∧
    (s.ctrl.moduleEn = false → step s = .refused .peripheralDisabled) ∧
    (s.ctrl.moduleEn = true → s.ctrl.pending = true → s.ctrl.intEn = false → step s = .refused .busStalled)

/-- Rules R142, R143 (decision D16): the handler runs the event decoded from STATUS and DATA, on its turn, when the inputs
are exhausted, and before a further condition is raised (log 5, log 6). -/
def Obligations.StepRunsTheDecodedEvent : Prop :=
  ∀ s : State, s.ctrl.pending = true → s.ctrl.intEn = true → s.ctrl.moduleEn = true →
    (s.inputs = [] → step s = exec (decodeEvent s.cfg.condDecode (s.status ++ s.data)) s) ∧
    (∀ c d rest, s.inputs = .condition c d :: rest →
      step s = exec (decodeEvent s.cfg.condDecode (s.status ++ s.data)) s) ∧
    (∀ rest, s.inputs = .handlerTurn :: rest →
      step s = exec (decodeEvent s.cfg.condDecode (s.status ++ s.data)) { s with inputs := rest })

/-- Rules R142, R163 (decisions D16, D29): with nothing that fires, the decoder's turn is idle, and the run has ended when
the inputs are exhausted (log 7). -/
def Obligations.NothingFiresNothingRuns : Prop :=
  ∀ s : State, ¬(s.ctrl.pending = true ∧ s.ctrl.intEn = true ∧ s.ctrl.moduleEn = true) →
    (s.inputs = [] → step s = .refused .runEnded) ∧
    (∀ rest, s.inputs = .handlerTurn :: rest → step s = .next { s with inputs := rest })

/-- Rules R68, R178 (decision D4): a host word runs its operation between two steps, pending condition or not; `op = 3` is
refused (log 9). -/
def Obligations.StepRunsTheHostOperation : Prop :=
  ∀ (s : State) (w : BitVec 9) (rest : List Input), s.inputs = .firmware w :: rest →
    (w.toNat < 128 → step s = exec .reset { s with inputs := rest }) ∧
    (128 ≤ w.toNat → w.toNat < 256 → step s = exec (.init (BitVec.ofNat 7 (w.toNat - 128))) { s with inputs := rest }) ∧
    (256 ≤ w.toNat → w.toNat < 384 → step s = exec .shdn { s with inputs := rest }) ∧
    (384 ≤ w.toNat → step s = .refused .unusedHostOp)

/-- The word that `withFetchWord` places is the one the next step runs (log 13, log 15): an event in its registers, a host
word in front of the inputs. -/
def Obligations.PlacedWordRunsNext : Prop :=
  ∀ (s : State) (w : Nat) (i : Instr),
    (decodeTableWord 16 w = some i → step (s.withFetchWord 16 w) = exec i { s with
      status := BitVec.ofNat 8 (w / 256)
      data := BitVec.ofNat 8 w
      ctrl := { s.ctrl with pending := true, moduleEn := true, intEn := true }
      cfg := { s.cfg with condDecode := condDecodeDefault } }) ∧
    (decodeTableWord 9 w = some i → step (s.withFetchWord 9 w) = exec i s)

/-- Rule R124 (d), R178 (derived): a condition raised and not yet handled when SHUTDOWN comes is dropped; the adapter and the
bus see nothing of it. -/
def Obligations.ShutdownDropsThePendingCondition : Prop :=
  ∀ (s : State) (c d : Byte) (rest : List Input), s.ctrl.moduleEn = true → s.ctrl.pending = false →
    s.inputs = .condition c d :: .firmware 0x100#9 :: rest →
    Host.Core.run Sys2Proof.core 2 s = .next { s with
      status := c
      data := d
      ctrl := { pending := false, ackEn := false, moduleEn := false, intEn := false }
      sla := 0x00#8
      lines := .floating
      inputs := rest }

/-! ### Encoding -/

/-- A few words written out from rules R62, R68 under the default map (decision D3). -/
def Obligations.WrittenOutWordsDecode : Prop :=
  decodeTableWord 16 0b0000000000000000 = some .berr ∧
  decodeTableWord 16 0b0000000111111111 = some .amw ∧
  decodeTableWord 16 0b0000001110101011 = some (.rxd 0xAB#8) ∧
  decodeTableWord 16 0b0000011000000000 = some .amr ∧
  decodeTableWord 16 0b1111100000000000 = some (.unk 0xF8#8) ∧
  decodeTableWord 9 0b010101010 = some (.init 0x2A#7) ∧
  decodeTableWord 9 0b100000000 = some .shdn ∧
  decodeTableWord 9 0b110000000 = none

/-- Rules R62, R63 (the spec's decision D3): the default map, over all event words. -/
def Obligations.DefaultMapNumbersTheConditions : Prop :=
  ∀ c d : Byte, decodeEvent condDecodeDefault (c ++ d) =
    match c.toNat with
    | 0 => .berr
    | 1 => .amw
    | 2 => .amgc
    | 3 => .rxd d
    | 4 => .rxgc d
    | 5 => .stop
    | 6 => .amr
    | 7 => .txa
    | 8 => .txn
    | 9 => .txl
    | _ => .unk c

/-- Under every map, decoding the word of a well-formed instruction gives it back. -/
def Obligations.DecodeOfEncodeIsTheInstruction : Prop :=
  ∀ (m : CondMap) (i : Instr), i.wellFormed m = true → decode m (encode m i) = .ok i

/-- Rules R5, R62, R63: under every map every event word decodes, to a well-formed instruction that is no host operation. -/
def Obligations.EveryEventWordDecodes : Prop :=
  ∀ (m : CondMap) (w : BitVec 16), ∃ i, decode m (.evt w) = .ok i ∧ i.wellFormed m = true ∧ i.isEvent = true

/-- Rule R62, "It is a total function", and every total function is a `COND_DECODE` of the model (log 4). -/
def Obligations.EveryCodeMapIsAConfiguration : Prop :=
  ∀ f : Byte → Option BusCondition, ∃ m : CondMap, ∀ code, condDecode m code = f code

/-! ### All events at once -/

/-- Rule R5, derived by the spec: no event is refused and none faults, in any state. -/
def Obligations.EveryEventCompletes : Prop :=
  ∀ (i : Instr) (s : State), i.isEvent = true → ∃ t, exec i s = .next t

/-- Rule R145: every event clears the pending flag exactly once, as its last action, which re-arms the peripheral. -/
def Obligations.EveryEventClearsPendingOnceAndLast : Prop :=
  ∀ (i : Instr) (s : State), i.isEvent = true → ∃ t acts, exec i s = .next t ∧ t.ctrl.pending = false ∧
    t.trace = s.trace ++ acts ++ [.clearPending] ∧ Action.clearPending ∉ acts ∧
    (s.ctrl.moduleEn = true → ∀ c d rest, ∃ u, step { t with inputs := .condition c d :: rest } = .next u ∧
      u.status = c ∧ u.ctrl.pending = true)

/-- The table under rule R45 (derived by the spec): the adapter call of each event, at most one. -/
def Obligations.AdapterCallOfEachEvent : Prop :=
  ∀ (i : Instr) (s : State), i.isEvent = true → ∃ t, exec i s = .next t ∧
    adapterCalls t.trace = adapterCalls s.trace ++
      match i, s.ws with
      | .rxd _, .hi | .rxgc _, .hi => []
      | .rxd b, .lo | .rxgc b, .lo => if targetOf s.ah b = 0xFFFF#16 then [] else [.setAddress (targetOf s.ah b)]
      | .rxd b, .data | .rxgc b, .data => [.setByte b]
      | .stop, _ => if s.ta = 0xFFFF#16 then [] else [.flush]
      | .amr, _ | .txa, _ => [.getByte s.nextAnswer]
      | _, _ => []

/-- The table under rule R11 (derived by the spec): the next `WS` of every event; it regresses only by a write address
match. -/
def Obligations.WriteStateAdvances : Prop :=
  ∀ (i : Instr) (s : State), i.isEvent = true → ∃ t, exec i s = .next t ∧ t.ws =
    match i, s.ws with
    | .amw, _ | .amgc, _ => .hi
    | .rxd _, .hi | .rxgc _, .hi => .lo
    | .rxd _, _ | .rxgc _, _ => .data
    | _, w => w

/-- Who writes which register (rules R11 to R13, R21, R22, R24 to R30): an event never writes STATUS, the enables, `SLA` or
`LINES`; it clears `pending`, sets `ack_en` only at the end of a read (decision D13, log 22), writes DATA only with an answer,
`WS` only by a write address match or a data event outside `WS_DATA`, `AH` only in `WS_HI`, and `TA` never from a non-data
event; the trace and the accesses are only extended. -/
def Obligations.EventsWriteOnlyTheirRegisters : Prop :=
  ∀ (i : Instr) (s t : State), i.isEvent = true → exec i s = .next t →
    t.status = s.status ∧ t.sla = s.sla ∧ t.lines = s.lines ∧ t.cfg = s.cfg ∧ t.inputs = s.inputs ∧
    t.ctrl.moduleEn = s.ctrl.moduleEn ∧ t.ctrl.intEn = s.ctrl.intEn ∧ t.ctrl.pending = false ∧
    s.trace <+: t.trace ∧ s.accesses <+: t.accesses ∧
    (i ≠ .txn → i ≠ .txl → t.ctrl.ackEn = s.ctrl.ackEn) ∧
    (i ≠ .amr → i ≠ .txa → t.data = s.data ∧ t.answers = s.answers ∧ t.draws = s.draws) ∧
    (s.ws ≠ .hi → t.ah = s.ah) ∧
    ((∀ b, i ≠ .rxd b ∧ i ≠ .rxgc b) → t.ah = s.ah ∧ t.ta = s.ta ∧ (i ≠ .amw → i ≠ .amgc → t.ws = s.ws)) ∧
    (s.ws = .data → t.ta = s.ta ∧ (i ≠ .amw → i ≠ .amgc → t.ws = .data)) ∧
    (s.ws = .hi → s.cfg.taOnHiCapture = .hold → t.ta = s.ta)

/-- Rule R70 (derived by the spec): unless a data-received event is pending, what DATA holds influences nothing but DATA. -/
def Obligations.DataRegisterIsReadByDataEventsOnly : Prop :=
  ∀ (s t : State) (d : Byte), (∀ b, s.pendingEvent ≠ .rxd b ∧ s.pendingEvent ≠ .rxgc b) → step s = .next t →
    ∃ u, step { s with data := d } = .next u ∧ t = { u with data := t.data }

/-- Rule R147 (decision D18): without the hooks the same registers, the same other actions and the same other
accesses result. -/
def Obligations.HooksAreObservationsOnly : Prop :=
  ∀ (is : List Instr) (s t : State), s.cfg.hooks = true → execAll is s = .next t →
    ∃ u, execAll is { s with cfg := { s.cfg with hooks := false } } = .next u ∧
      t = { u with cfg := t.cfg, trace := t.trace, accesses := t.accesses } ∧
      u.accesses.filter (fun a => !a.isHook) = t.accesses.filter (fun a => !a.isHook) ∧
      u.trace.filter (fun a => !a.isHook) = t.trace.filter (fun a => !a.isHook) ∧
      ∃ acts, u.trace = s.trace ++ acts ∧ ∀ a ∈ acts, a.isHook = false

/-- Rule R180 (derived by the spec), with rule R87: once the sentinel is assembled, and until a write address match, every
stop is an exit request, and the adapter sees neither a `flush()` nor a `set_address`. -/
def Obligations.ExitIsSticky : Prop :=
  ∀ (is : List Instr) (s : State), (∀ i ∈ is, i.isEvent = true ∧ i ≠ .amw ∧ i ≠ .amgc) →
    s.ws = .data → s.ta = 0xFFFF#16 → s.cfg.hooks = true →
    ∃ t acts, execAll is s = .next t ∧ t.ws = .data ∧ t.ta = 0xFFFF#16 ∧ t.trace = s.trace ++ acts ∧
      Action.flush ∉ acts ∧ (∀ a, Action.setAddress a ∉ acts) ∧
      acts.count .hookExitRequest = is.count .stop

/-! ### Transactions -/

/-- Rule R90 (derived by the spec), with R48 and R82: a well-formed write transaction, raised and handled event by event from
any state of an enabled decoder, with any mix of directed and general-call events. The raises and the handler's turns are given
as inputs, in this order (log 5). -/
def Obligations.WriteTransactionCalls : Prop :=
  ∀ (s : State) (cMatch cHigh cLow cStop dMatch hi lo dStop : Byte) (body : List (Byte × Byte)) (rest : List Input),
    s.ready → isWriteMatchCode s.cfg.condDecode cMatch → isDataCode s.cfg.condDecode cHigh →
    isDataCode s.cfg.condDecode cLow → (∀ e ∈ body, isDataCode s.cfg.condDecode e.1) →
    condDecode s.cfg.condDecode cStop = some .stopOrRestart →
    s.inputs = eventInputs ((cMatch, dMatch) :: (cHigh, hi) :: (cLow, lo) :: (body ++ [(cStop, dStop)])) ++ rest →
    ∃ t : State, Host.Core.run Sys2Proof.core (2 * (body.length + 4)) s = .next t ∧
      t.inputs = rest ∧ t.ws = .data ∧ t.ah = hi ∧ t.ta = targetOf hi lo ∧ t.ctrl = s.ctrl ∧
      adapterCalls t.trace = adapterCalls s.trace ++
        if targetOf hi lo = 0xFFFF#16 then body.map (fun e => .setByte e.2)
        else .setAddress (targetOf hi lo) :: (body.map (fun e => .setByte e.2) ++ [.flush])

/-- Rules R69, R101 (a): a read transaction of one byte and n more, ended by either of the two closing conditions (rules R102,
R103), makes exactly n + 1 calls of `get_byte()`, with the environment's answers in order (log 3), each byte placed on the bus
at once. The raises and the handler's turns are given as inputs, in this order (log 5). -/
def Obligations.ReadTransactionCalls : Prop :=
  ∀ (s : State) (cMatch cMore cEnd dMatch dEnd v : Byte) (more : List (Byte × Byte)) (left : List Byte) (rest : List Input),
    s.ready → condDecode s.cfg.condDecode cMatch = some .addressMatchRead →
    condDecode s.cfg.condDecode cMore = some .dataTransmittedAck →
    isReadEndCode s.cfg.condDecode cEnd →
    s.inputs = eventInputs ((cMatch, dMatch) :: (more.map (fun e => (cMore, e.1)) ++ [(cEnd, dEnd)])) ++ rest →
    s.answers = v :: (more.map (fun e => e.2) ++ left) →
    ∃ t : State, Host.Core.run Sys2Proof.core (2 * (more.length + 2)) s = .next t ∧
      t.inputs = rest ∧ t.answers = left ∧ t.draws = s.draws + more.length + 1 ∧
      t.ws = s.ws ∧ t.ah = s.ah ∧ t.ta = s.ta ∧ t.ctrl = { s.ctrl with ackEn := true } ∧
      t.trace = s.trace ++ (v :: more.map (fun e => e.2)).flatMap (fun b => [.getByte b, .dataWrite b, .clearPending]) ++
        [.ackEnSet, .clearPending]

/-- Rules R69, R177 (derived by the spec): setting an address, a repeated start, and reading one byte and n more, raised and
handled event by event (inputs in this order, log 5): the restart commits although nothing was written, exactly n + 1 bytes are
fetched and placed in DATA, and the closing raise leaves its own byte there (rule R141, decision D20, log 23), as at the end of
program P2 of 95_test_vectors.md. -/
def Obligations.SeekThenReadCalls : Prop :=
  ∀ (s : State) (cWrite cHigh cLow cStop cRead cMore cEnd dWrite hi lo dStop dRead dEnd v : Byte)
    (more : List (Byte × Byte)) (left : List Byte) (rest : List Input),
    s.ready → isWriteMatchCode s.cfg.condDecode cWrite → isDataCode s.cfg.condDecode cHigh →
    isDataCode s.cfg.condDecode cLow → condDecode s.cfg.condDecode cStop = some .stopOrRestart →
    condDecode s.cfg.condDecode cRead = some .addressMatchRead →
    condDecode s.cfg.condDecode cMore = some .dataTransmittedAck → isReadEndCode s.cfg.condDecode cEnd →
    s.inputs = eventInputs ((cWrite, dWrite) :: (cHigh, hi) :: (cLow, lo) :: (cStop, dStop) :: (cRead, dRead) ::
      (more.map (fun e => (cMore, e.1)) ++ [(cEnd, dEnd)])) ++ rest →
    s.answers = v :: (more.map (fun e => e.2) ++ left) → targetOf hi lo ≠ 0xFFFF#16 →
    ∃ t : State, Host.Core.run Sys2Proof.core (2 * (more.length + 6)) s = .next t ∧
      t.inputs = rest ∧ t.answers = left ∧ t.ws = .data ∧ t.ah = hi ∧ t.ta = targetOf hi lo ∧ t.data = dEnd ∧
      t.status = cEnd ∧ t.ctrl = { s.ctrl with ackEn := true } ∧
      adapterCalls t.trace = adapterCalls s.trace ++
        .setAddress (targetOf hi lo) :: .flush :: (v :: more.map (fun e => e.2)).map .getByte ∧
      t.trace.filterMap Action.placedByte = s.trace.filterMap Action.placedByte ++ v :: more.map (fun e => e.2)

/-! ### Invariants -/

/-- Every step keeps the two modes apart and consistent: the handler's and the peripheral's enables go together (rules R26, R27,
R142, R149, R151), `SLA` and `LINES` are those of the mode (rules R29, R30, R122, R124), and so is `ack_en` (rules R25, R122,
R124). That `SHDN` clears the flags is decision D9; that nothing else clears `ack_en`, the peripheral included, is decision D13
(log 22). -/
def Obligations.StepKeepsModesConsistent : Prop :=
  ∀ s t : State, ModeConsistent s → step s = .next t → ModeConsistent t

/-- Rules R14, R46: no step passes the sentinel to `set_address`. -/
def Obligations.StepNeverAddressesTheSentinel : Prop :=
  ∀ s t : State, SentinelNeverAddressed s → step s = .next t → SentinelNeverAddressed t

/-- Rule R47, where the address is complete: every step keeps it that in `WS_DATA` a `TA` other than the sentinel is the operand
of the most recent `set_address`. -/
def Obligations.StepKeepsTargetLastAddress : Prop :=
  ∀ s t : State, TargetIsLastAddress s → step s = .next t → TargetIsLastAddress t

/-- The three invariants hold after reset, with every sequence of inputs and answers given to the machine (rules R32, R163). -/
def Obligations.InvariantsHoldAtReset : Prop :=
  ∀ (ins : List Input) (ans : List Byte),
    ModeConsistent { State.reset with inputs := ins, answers := ans } ∧
    SentinelNeverAddressed { State.reset with inputs := ins, answers := ans } ∧
    TargetIsLastAddress { State.reset with inputs := ins, answers := ans }

/-- Rules R53, R150: no step drops or reorders what was recorded, and none changes the configuration (log 4, log 14). -/
def Obligations.StepOnlyExtendsTheTrace : Prop :=
  ∀ s t : State, step s = .next t → s.trace <+: t.trace ∧ s.accesses <+: t.accesses ∧ t.cfg = s.cfg

/-- Rule R163 (decision D29): in a state with consistent modes, the run has ended exactly when the inputs are exhausted and
nothing is pending (log 7). -/
def Obligations.RunHasEndedExactlyWhenNothingIsLeft : Prop :=
  ∀ s : State, ModeConsistent s → (step s = .refused .runEnded ↔ s.inputs = [] ∧ s.ctrl.pending = false)

/-- Rules R163, R175: every run comes to its end, since every step uses up an input or a pending condition. -/
def Obligations.EveryRunEnds : Prop :=
  ∀ (s t : State) (k : Nat), s.turnsLeft < k → Host.Core.run Sys2Proof.core k s ≠ .next t

/-! ### Order inside a step -/

/-- Rule R144 (decision D17), whole: inside the step of every event (1) STATUS is read, (2) DATA by the two data-received
conditions alone, then come, each at most once and in this order, (3) the registers, (4) the adapter call, (5) the write of
DATA, (6) the hook, and last (7) one write of the control register, which pulses `stop` for BERR alone, sets `ack_en` for TXN and
TXL alone, and clears `pending`. The calls, DATA writes and hooks of the action list are these accesses, in the same order (in
the list of rule R110 the strobe, an effect of the control write, is named before the hook: log 11). -/
def Obligations.AccessesStandInTheOrderOfOneStep : Prop :=
  ∀ (i : Instr) (s : State), i.isEvent = true → ∃ t acts accs, exec i s = .next t ∧
    t.trace = s.trace ++ acts ∧ t.accesses = s.accesses ++ accs ∧
    accs.Pairwise (fun a b => a.phase < b.phase) ∧
    accs.head? = some .readStatus ∧
    (.readData ∈ accs ↔ ∃ b, i = .rxd b ∨ i = .rxgc b) ∧
    (.writeRegisters ∈ accs ↔ i = .amw ∨ i = .amgc ∨ (s.ws ≠ .data ∧ ∃ b, i = .rxd b ∨ i = .rxgc b)) ∧
    (∃ w, accs.getLast? = some (.writeControl w) ∧ (w.stop = true ↔ i = .berr) ∧ (w.ackEn = true ↔ i = .txn ∨ i = .txl)) ∧
    t.ctrl.pending = false ∧
    accs.filterMap Access.shown = acts.filter (fun a => !a.isControl)
end

