-- ==== Sys2Proof/Laws/Decode.lean ====
section
/-! SUPPORT. The fields of the two word formats, and the two directions between codes and conditions. -/

namespace Sys2Proof

@[simp] theorem eventStatus_eventWord (c d : Byte) : eventStatus (eventWord c d) = c :=
  BitVec.extractLsb'_append_eq_left

@[simp] theorem eventData_eventWord (c d : Byte) : eventData (eventWord c d) = d :=
  BitVec.extractLsb'_append_eq_right

@[simp] theorem hostOp_append (op : BitVec 2) (a : SlaveAddr) : hostOp (op ++ a) = op :=
  BitVec.extractLsb'_append_eq_left

@[simp] theorem hostAddr_append (op : BitVec 2) (a : SlaveAddr) : hostAddr (op ++ a) = a :=
  BitVec.extractLsb'_append_eq_right

/-- The code the encoder picks for a condition decodes to it. -/
theorem condDecode_of_condCode {m : CondMap} {k : BusCondition} {c : Byte} (h : condCode m k = some c) :
    condDecode m c = some k := by
  simp only [condCode, Option.map_eq_some_iff] at h
  obtain ⟨e, he, rfl⟩ := h
  simpa using List.find?_some he

/-- A code that decodes to a condition stands in the map. -/
theorem mem_of_condDecode {m : CondMap} {k : BusCondition} {c : Byte} (h : condDecode m c = some k) : (c, k) ∈ m := by
  induction m with
  | nil => cases h
  | cons e rest ih =>
    simp only [condDecode] at h
    split at h
    · cases h
      simp [*]
    · exact List.mem_cons_of_mem _ (ih h)

/-- A condition that some code decodes to has a code. -/
theorem reports_of_condDecode {m : CondMap} {k : BusCondition} {c : Byte} (h : condDecode m c = some k) :
    m.reports k = true := by
  have hm := mem_of_condDecode h
  simp only [CondMap.reports, condCode, Option.isSome_map, List.find?_isSome]
  exact ⟨(c, k), hm, by simpa using h⟩

end Sys2Proof
end

