-- ==== Sys2Proof/Machine/Simulator.lean ====
section
/-! DEFINITION. The deterministic simulator adapter of 20_memory.md rule R56, "an illustration and not part of the hardware":
no field of `State` holds it and no step uses it. It replays a trace, so that the programs of 95_test_vectors.md can be held
against the model. Its memory is the list of the listed cells, in one canonical form. -/

namespace Sys2Proof.Machine

/-- Listed cells, addresses strictly rising, none equal to what an unlisted address reads as. -/
abbrev Memory := List Host.Cell

/-- What an unlisted address reads as (log 18). -/
def Memory.unlisted : Byte := 0x00#8

/-- One byte. -/
def Memory.read : Memory → Nat → Byte
  | [], _ => Memory.unlisted
  | (k, v) :: rest, a => if a = k then v else Memory.read rest a

/-- One byte in front of the cells of higher addresses; the unlisted value is not listed. -/
def Memory.cons (a : Nat) (v : Byte) (rest : Memory) : Memory :=
  if v = Memory.unlisted then rest else (a, v) :: rest

/-- Write one byte, keeping the canonical form. -/
def Memory.write : Memory → Nat → Byte → Memory
  | [], a, v => Memory.cons a v []
  | (k, w) :: rest, a, v =>
    if a < k then Memory.cons a v ((k, w) :: rest)
    else if a = k then Memory.cons a v rest
    else (k, w) :: Memory.write rest a v

/-- The canonical form from an address on, inside the 64 KiB of the simulator. -/
def Memory.wfFrom (low : Nat) : Memory → Bool
  | [] => true
  | (k, v) :: rest => decide (low ≤ k) && decide (k < 65536) && decide (v ≠ Memory.unlisted) && Memory.wfFrom (k + 1) rest

/-- The canonical form. -/
def Memory.wf (m : Memory) : Bool := Memory.wfFrom 0 m

/-- `pos`, `mem`, `flushes` (rule R56). -/
structure Simulator where
  pos     : Addr
  mem     : Memory
  flushes : Nat
  deriving DecidableEq, Repr

/-- One action of a trace; `none` when the recorded answer of a `get_byte()` is not the simulator's. Positions wrap modulo
65536 (rule R56, decision D21). -/
def Simulator.act (sim : Simulator) : Action → Option Simulator
  | .setAddress a => some { sim with pos := a }
  | .setByte v => some { sim with mem := sim.mem.write sim.pos.toNat v, pos := sim.pos + 1 }
  | .getByte v => if sim.mem.read sim.pos.toNat = v then some { sim with pos := sim.pos + 1 } else none
  | .flush => some { sim with flushes := sim.flushes + 1 }
  | .dataWrite _ | .ackEnSet | .stop | .hookBusError | .hookUnrecognized _ | .hookExitRequest | .clearPending => some sim

/-- A whole trace. -/
def Simulator.replay : Simulator → List Action → Option Simulator
  | sim, [] => some sim
  | sim, a :: rest =>
    match sim.act a with
    | none => none
    | some sim' => sim'.replay rest

end Sys2Proof.Machine
end

