-- ==== Sys2Proof/Laws/Memory.lean ====
section
/-! SUPPORT. The simulator adapter's memory: read after write, and the canonical form that every operation keeps. -/

namespace Sys2Proof.Machine

theorem Memory.wfFrom_mono {low high : Nat} (h : low ≤ high) {m : Memory} (hm : m.wfFrom high = true) :
    m.wfFrom low = true := by
  cases m with
  | nil => rfl
  | cons e rest =>
    simp only [Memory.wfFrom, Bool.and_eq_true, decide_eq_true_eq] at hm ⊢
    exact ⟨⟨⟨by omega, hm.1.1.2⟩, hm.1.2⟩, hm.2⟩

theorem Memory.wfFrom_cons {low a : Nat} {v : Byte} {rest : Memory} (hl : low ≤ a) (ha : a < 65536)
    (h : Memory.wfFrom (a + 1) rest = true) : Memory.wfFrom low (Memory.cons a v rest) = true := by
  unfold Memory.cons
  split
  · exact Memory.wfFrom_mono (by omega) h
  · simp [Memory.wfFrom, *]

/-- A write keeps the canonical form. -/
theorem Memory.wfFrom_write {m : Memory} : ∀ {low a : Nat} {v : Byte}, low ≤ a → a < 65536 →
    m.wfFrom low = true → (m.write a v).wfFrom low = true := by
  induction m with
  | nil => intro low a v hl ha _; exact Memory.wfFrom_cons hl ha rfl
  | cons e rest ih =>
    obtain ⟨k, w⟩ := e
    intro low a v hl ha h
    have hk := h
    simp only [Memory.wfFrom, Bool.and_eq_true, decide_eq_true_eq] at hk
    obtain ⟨⟨⟨h1, h2⟩, h3⟩, h4⟩ := hk
    unfold Memory.write
    split
    · refine Memory.wfFrom_cons hl ha ?_
      simp only [Memory.wfFrom, Bool.and_eq_true, decide_eq_true_eq]
      exact ⟨⟨⟨by omega, h2⟩, h3⟩, h4⟩
    · split
      · subst_vars
        exact Memory.wfFrom_cons hl ha h4
      · simp only [Memory.wfFrom, Bool.and_eq_true, decide_eq_true_eq]
        exact ⟨⟨⟨h1, h2⟩, h3⟩, ih (by omega) ha h4⟩

/-- Below its first cell a canonical memory reads as unlisted. -/
theorem Memory.read_below {m : Memory} : ∀ {low a : Nat}, m.wfFrom low = true → a < low → m.read a = Memory.unlisted := by
  induction m with
  | nil => intros; rfl
  | cons e rest ih =>
    obtain ⟨k, w⟩ := e
    intro low a h ha
    simp only [Memory.wfFrom, Bool.and_eq_true, decide_eq_true_eq] at h
    obtain ⟨⟨⟨h1, -⟩, -⟩, h4⟩ := h
    simp only [Memory.read]
    rw [if_neg (by omega)]
    exact ih h4 (by omega)

theorem Memory.read_cons {a b low : Nat} {v : Byte} {rest : Memory} (h : rest.wfFrom low = true) (ha : a < low) :
    (Memory.cons a v rest).read b = if b = a then v else rest.read b := by
  unfold Memory.cons
  split
  · split
    · subst_vars; exact Memory.read_below h ha
    · rfl
  · rfl

/-- Read after write, at the same address and at every other. -/
theorem Memory.read_write {m : Memory} : ∀ {low a b : Nat} {v : Byte}, m.wfFrom low = true →
    (m.write a v).read b = if b = a then v else m.read b := by
  induction m with
  | nil =>
    intro low a b v _
    exact Memory.read_cons (low := a + 1) rfl (by omega)
  | cons e rest ih =>
    obtain ⟨k, w⟩ := e
    intro low a b v h
    have hk := h
    simp only [Memory.wfFrom, Bool.and_eq_true, decide_eq_true_eq] at hk
    obtain ⟨⟨⟨h1, h2⟩, h3⟩, h4⟩ := hk
    unfold Memory.write
    split
    · refine Memory.read_cons (low := a + 1) ?_ (by omega)
      simp only [Memory.wfFrom, Bool.and_eq_true, decide_eq_true_eq]
      exact ⟨⟨⟨by omega, h2⟩, h3⟩, h4⟩
    · split
      · subst_vars
        rw [Memory.read_cons h4 (by omega)]
        simp only [Memory.read]
        split <;> rfl
      · simp only [Memory.read, ih h4]
        split
        · rw [if_neg (by omega)]
        · rfl

/-- Every action of the simulator adapter keeps the canonical form of its memory. -/
theorem Simulator.act_wf {sim sim' : Simulator} {a : Action} (h : sim.act a = some sim') (hw : sim.mem.wf = true) :
    sim'.mem.wf = true := by
  cases a <;> simp only [Simulator.act, Option.some.injEq] at h
  case setByte v =>
    subst h
    exact Memory.wfFrom_write (Nat.zero_le _) sim.pos.isLt hw
  case getByte v =>
    split at h
    · cases h; exact hw
    · cases h
  all_goals subst h; exact hw

end Sys2Proof.Machine
end

