-- ==== Sys2Proof/Laws/Operands.lean ====
section
/-! SUPPORT. What operand assembly computes, as numbers and in the shift-and-or form of rule R64. -/

namespace Sys2Proof.Machine

theorem assembleAddress_toNat (h l : Byte) : (assembleAddress h l).toNat = h.toNat * 256 + l.toNat :=
  calc (assembleAddress h l).toNat = h.toNat <<< 8 ||| l.toNat := BitVec.toNat_append h l
    _ = h.toNat * 256 + l.toNat := by rw [← Nat.shiftLeft_add_eq_or_of_lt l.isLt, Nat.shiftLeft_eq]

theorem targetOf_toNat (h l : Byte) : (targetOf h l).toNat = h.toNat * 256 + l.toNat := by
  have hl := l.isLt
  have hh := h.isLt
  have e : h.toNat <<< 8 % 2 ^ 16 = h.toNat <<< 8 := by rw [Nat.shiftLeft_eq]; omega
  simp only [targetOf, BitVec.toNat_or, BitVec.toNat_shiftLeft, BitVec.toNat_setWidth, BitVec.zeroExtend]
  rw [Nat.mod_eq_of_lt (by omega : h.toNat < 2 ^ 16), Nat.mod_eq_of_lt (by omega : l.toNat < 2 ^ 16), e,
    ← Nat.shiftLeft_add_eq_or_of_lt hl, Nat.shiftLeft_eq]

/-- `AH ++ b` is `(AH << 8) | b`. -/
theorem assembleAddress_eq (h l : Byte) : assembleAddress h l = targetOf h l := by
  apply BitVec.eq_of_toNat_eq
  rw [assembleAddress_toNat, targetOf_toNat]

/-- An address is assembled from its own two bytes. -/
theorem targetOf_bytes (a : Addr) : targetOf (a.extractLsb' 8 8) (a.extractLsb' 0 8) = a := by
  apply BitVec.eq_of_toNat_eq
  have := a.isLt
  simp only [targetOf_toNat, BitVec.extractLsb'_toNat, Nat.shiftRight_eq_div_pow]
  omega

/-- The sentinel is two 0xFF bytes and nothing else (rule R67). -/
theorem targetOf_eq_sentinel_iff (h l : Byte) : targetOf h l = 0xFFFF#16 ↔ h = 0xFF#8 ∧ l = 0xFF#8 := by
  have hl := l.isLt
  have hh := h.isLt
  simp only [← BitVec.toNat_inj, targetOf_toNat, BitVec.toNat_ofNat]
  omega

/-- `TA[15:8] <- b` by masks. -/
theorem captureTarget_highHalf (b : Byte) (ta : Addr) :
    captureTarget .highHalf b ta = (ta &&& 0x00FF#16) ||| (b.zeroExtend 16 <<< 8) := by
  have e : captureTarget .highHalf b ta = assembleAddress b (ta.extractLsb' 0 8) := rfl
  rw [e, assembleAddress_eq, targetOf, BitVec.or_comm]
  congr 1
  apply BitVec.eq_of_toNat_eq
  have : ta.toNat &&& 255 = ta.toNat % 256 := Nat.and_two_pow_sub_one_eq_mod ta.toNat 8
  simp [BitVec.extractLsb'_toNat, this]
  omega

end Sys2Proof.Machine
end

