-- ==== Sys2Proof/Laws/State.lean ====
section
/-! SUPPORT. What each named update of the state does to each field, so that no proof unfolds a record update. -/

namespace Sys2Proof.Machine

section
variable (s : State)

/-! ### record -/

@[simp] theorem State.record_ws (acts : List Action) (accs : List Access) : (s.record acts accs).ws = s.ws := rfl
@[simp] theorem State.record_ah (acts : List Action) (accs : List Access) : (s.record acts accs).ah = s.ah := rfl
@[simp] theorem State.record_ta (acts : List Action) (accs : List Access) : (s.record acts accs).ta = s.ta := rfl
@[simp] theorem State.record_status (acts : List Action) (accs : List Access) : (s.record acts accs).status = s.status := rfl
@[simp] theorem State.record_data (acts : List Action) (accs : List Access) : (s.record acts accs).data = s.data := rfl
@[simp] theorem State.record_ctrl (acts : List Action) (accs : List Access) : (s.record acts accs).ctrl = s.ctrl := rfl
@[simp] theorem State.record_sla (acts : List Action) (accs : List Access) : (s.record acts accs).sla = s.sla := rfl
@[simp] theorem State.record_lines (acts : List Action) (accs : List Access) : (s.record acts accs).lines = s.lines := rfl
@[simp] theorem State.record_cfg (acts : List Action) (accs : List Access) : (s.record acts accs).cfg = s.cfg := rfl
@[simp] theorem State.record_inputs (acts : List Action) (accs : List Access) : (s.record acts accs).inputs = s.inputs := rfl
@[simp] theorem State.record_answers (acts : List Action) (accs : List Access) : (s.record acts accs).answers = s.answers := rfl
@[simp] theorem State.record_draws (acts : List Action) (accs : List Access) : (s.record acts accs).draws = s.draws := rfl
@[simp] theorem State.record_trace (acts : List Action) (accs : List Access) : (s.record acts accs).trace = s.trace ++ acts := rfl
@[simp] theorem State.record_accesses (acts : List Action) (accs : List Access) : (s.record acts accs).accesses = s.accesses ++ accs := rfl

/-! ### startWrite -/

@[simp] theorem State.startWrite_ws : s.startWrite.ws = .hi := rfl
@[simp] theorem State.startWrite_ah : s.startWrite.ah = s.ah := rfl
@[simp] theorem State.startWrite_ta : s.startWrite.ta = s.ta := rfl
@[simp] theorem State.startWrite_status : s.startWrite.status = s.status := rfl
@[simp] theorem State.startWrite_data : s.startWrite.data = s.data := rfl
@[simp] theorem State.startWrite_ctrl : s.startWrite.ctrl = s.ctrl := rfl
@[simp] theorem State.startWrite_sla : s.startWrite.sla = s.sla := rfl
@[simp] theorem State.startWrite_lines : s.startWrite.lines = s.lines := rfl
@[simp] theorem State.startWrite_cfg : s.startWrite.cfg = s.cfg := rfl
@[simp] theorem State.startWrite_inputs : s.startWrite.inputs = s.inputs := rfl
@[simp] theorem State.startWrite_answers : s.startWrite.answers = s.answers := rfl
@[simp] theorem State.startWrite_draws : s.startWrite.draws = s.draws := rfl
@[simp] theorem State.startWrite_trace : s.startWrite.trace = s.trace := rfl
@[simp] theorem State.startWrite_accesses : s.startWrite.accesses = s.accesses ++ [.writeRegisters] := rfl

/-! ### captureHigh -/

@[simp] theorem State.captureHigh_ws (b : Byte) : (s.captureHigh b).ws = .lo := rfl
@[simp] theorem State.captureHigh_ah (b : Byte) : (s.captureHigh b).ah = b := rfl
@[simp] theorem State.captureHigh_ta (b : Byte) : (s.captureHigh b).ta = captureTarget s.cfg.taOnHiCapture b s.ta := rfl
@[simp] theorem State.captureHigh_status (b : Byte) : (s.captureHigh b).status = s.status := rfl
@[simp] theorem State.captureHigh_data (b : Byte) : (s.captureHigh b).data = s.data := rfl
@[simp] theorem State.captureHigh_ctrl (b : Byte) : (s.captureHigh b).ctrl = s.ctrl := rfl
@[simp] theorem State.captureHigh_sla (b : Byte) : (s.captureHigh b).sla = s.sla := rfl
@[simp] theorem State.captureHigh_lines (b : Byte) : (s.captureHigh b).lines = s.lines := rfl
@[simp] theorem State.captureHigh_cfg (b : Byte) : (s.captureHigh b).cfg = s.cfg := rfl
@[simp] theorem State.captureHigh_inputs (b : Byte) : (s.captureHigh b).inputs = s.inputs := rfl
@[simp] theorem State.captureHigh_answers (b : Byte) : (s.captureHigh b).answers = s.answers := rfl
@[simp] theorem State.captureHigh_draws (b : Byte) : (s.captureHigh b).draws = s.draws := rfl
@[simp] theorem State.captureHigh_trace (b : Byte) : (s.captureHigh b).trace = s.trace := rfl
@[simp] theorem State.captureHigh_accesses (b : Byte) : (s.captureHigh b).accesses = s.accesses ++ [.writeRegisters] := rfl

/-! ### setTarget -/

@[simp] theorem State.setTarget_ws (a : Addr) : (s.setTarget a).ws = .data := rfl
@[simp] theorem State.setTarget_ah (a : Addr) : (s.setTarget a).ah = s.ah := rfl
@[simp] theorem State.setTarget_ta (a : Addr) : (s.setTarget a).ta = a := rfl
@[simp] theorem State.setTarget_status (a : Addr) : (s.setTarget a).status = s.status := rfl
@[simp] theorem State.setTarget_data (a : Addr) : (s.setTarget a).data = s.data := rfl
@[simp] theorem State.setTarget_ctrl (a : Addr) : (s.setTarget a).ctrl = s.ctrl := rfl
@[simp] theorem State.setTarget_sla (a : Addr) : (s.setTarget a).sla = s.sla := rfl
@[simp] theorem State.setTarget_lines (a : Addr) : (s.setTarget a).lines = s.lines := rfl
@[simp] theorem State.setTarget_cfg (a : Addr) : (s.setTarget a).cfg = s.cfg := rfl
@[simp] theorem State.setTarget_inputs (a : Addr) : (s.setTarget a).inputs = s.inputs := rfl
@[simp] theorem State.setTarget_answers (a : Addr) : (s.setTarget a).answers = s.answers := rfl
@[simp] theorem State.setTarget_draws (a : Addr) : (s.setTarget a).draws = s.draws := rfl
@[simp] theorem State.setTarget_trace (a : Addr) : (s.setTarget a).trace = s.trace := rfl
@[simp] theorem State.setTarget_accesses (a : Addr) : (s.setTarget a).accesses = s.accesses ++ [.writeRegisters] := rfl

/-! ### adapterGetByte -/

@[simp] theorem State.adapterGetByte_ws : s.adapterGetByte.ws = s.ws := rfl
@[simp] theorem State.adapterGetByte_ah : s.adapterGetByte.ah = s.ah := rfl
@[simp] theorem State.adapterGetByte_ta : s.adapterGetByte.ta = s.ta := rfl
@[simp] theorem State.adapterGetByte_status : s.adapterGetByte.status = s.status := rfl
@[simp] theorem State.adapterGetByte_data : s.adapterGetByte.data = s.data := rfl
@[simp] theorem State.adapterGetByte_ctrl : s.adapterGetByte.ctrl = s.ctrl := rfl
@[simp] theorem State.adapterGetByte_sla : s.adapterGetByte.sla = s.sla := rfl
@[simp] theorem State.adapterGetByte_lines : s.adapterGetByte.lines = s.lines := rfl
@[simp] theorem State.adapterGetByte_cfg : s.adapterGetByte.cfg = s.cfg := rfl
@[simp] theorem State.adapterGetByte_inputs : s.adapterGetByte.inputs = s.inputs := rfl
@[simp] theorem State.adapterGetByte_answers : s.adapterGetByte.answers = s.answers.tail := rfl
@[simp] theorem State.adapterGetByte_draws : s.adapterGetByte.draws = s.draws + 1 := rfl
@[simp] theorem State.adapterGetByte_trace : s.adapterGetByte.trace = s.trace ++ [.getByte s.nextAnswer] := rfl
@[simp] theorem State.adapterGetByte_accesses : s.adapterGetByte.accesses = s.accesses ++ [.adapterCall (.getByte s.nextAnswer)] := rfl

/-! ### writeData -/

@[simp] theorem State.writeData_ws (v : Byte) : (s.writeData v).ws = s.ws := rfl
@[simp] theorem State.writeData_ah (v : Byte) : (s.writeData v).ah = s.ah := rfl
@[simp] theorem State.writeData_ta (v : Byte) : (s.writeData v).ta = s.ta := rfl
@[simp] theorem State.writeData_status (v : Byte) : (s.writeData v).status = s.status := rfl
@[simp] theorem State.writeData_data (v : Byte) : (s.writeData v).data = v := rfl
@[simp] theorem State.writeData_ctrl (v : Byte) : (s.writeData v).ctrl = s.ctrl := rfl
@[simp] theorem State.writeData_sla (v : Byte) : (s.writeData v).sla = s.sla := rfl
@[simp] theorem State.writeData_lines (v : Byte) : (s.writeData v).lines = s.lines := rfl
@[simp] theorem State.writeData_cfg (v : Byte) : (s.writeData v).cfg = s.cfg := rfl
@[simp] theorem State.writeData_inputs (v : Byte) : (s.writeData v).inputs = s.inputs := rfl
@[simp] theorem State.writeData_answers (v : Byte) : (s.writeData v).answers = s.answers := rfl
@[simp] theorem State.writeData_draws (v : Byte) : (s.writeData v).draws = s.draws := rfl
@[simp] theorem State.writeData_trace (v : Byte) : (s.writeData v).trace = s.trace ++ [.dataWrite v] := rfl
@[simp] theorem State.writeData_accesses (v : Byte) : (s.writeData v).accesses = s.accesses ++ [.writeData v] := rfl

/-! ### raise -/

@[simp] theorem State.raise_ws (c d : Byte) : (s.raise c d).ws = s.ws := rfl
@[simp] theorem State.raise_ah (c d : Byte) : (s.raise c d).ah = s.ah := rfl
@[simp] theorem State.raise_ta (c d : Byte) : (s.raise c d).ta = s.ta := rfl
@[simp] theorem State.raise_status (c d : Byte) : (s.raise c d).status = c := rfl
@[simp] theorem State.raise_data (c d : Byte) : (s.raise c d).data = d := rfl
@[simp] theorem State.raise_ctrl (c d : Byte) : (s.raise c d).ctrl = s.ctrl.setPending := rfl
@[simp] theorem State.raise_sla (c d : Byte) : (s.raise c d).sla = s.sla := rfl
@[simp] theorem State.raise_lines (c d : Byte) : (s.raise c d).lines = s.lines := rfl
@[simp] theorem State.raise_cfg (c d : Byte) : (s.raise c d).cfg = s.cfg := rfl
@[simp] theorem State.raise_inputs (c d : Byte) : (s.raise c d).inputs = s.inputs := rfl
@[simp] theorem State.raise_answers (c d : Byte) : (s.raise c d).answers = s.answers := rfl
@[simp] theorem State.raise_draws (c d : Byte) : (s.raise c d).draws = s.draws := rfl
@[simp] theorem State.raise_trace (c d : Byte) : (s.raise c d).trace = s.trace := rfl
@[simp] theorem State.raise_accesses (c d : Byte) : (s.raise c d).accesses = s.accesses := rfl

/-! ### controlWrite -/

@[simp] theorem State.controlWrite_ws (w : ControlWrite) : (s.controlWrite w).ws = s.ws := rfl
@[simp] theorem State.controlWrite_ah (w : ControlWrite) : (s.controlWrite w).ah = s.ah := rfl
@[simp] theorem State.controlWrite_ta (w : ControlWrite) : (s.controlWrite w).ta = s.ta := rfl
@[simp] theorem State.controlWrite_status (w : ControlWrite) : (s.controlWrite w).status = s.status := rfl
@[simp] theorem State.controlWrite_data (w : ControlWrite) : (s.controlWrite w).data = s.data := rfl
@[simp] theorem State.controlWrite_ctrl (w : ControlWrite) : (s.controlWrite w).ctrl = s.ctrl.written w := rfl
@[simp] theorem State.controlWrite_sla (w : ControlWrite) : (s.controlWrite w).sla = s.sla := rfl
@[simp] theorem State.controlWrite_lines (w : ControlWrite) : (s.controlWrite w).lines = s.lines := rfl
@[simp] theorem State.controlWrite_cfg (w : ControlWrite) : (s.controlWrite w).cfg = s.cfg := rfl
@[simp] theorem State.controlWrite_inputs (w : ControlWrite) : (s.controlWrite w).inputs = s.inputs := rfl
@[simp] theorem State.controlWrite_answers (w : ControlWrite) : (s.controlWrite w).answers = s.answers := rfl
@[simp] theorem State.controlWrite_draws (w : ControlWrite) : (s.controlWrite w).draws = s.draws := rfl
@[simp] theorem State.controlWrite_trace (w : ControlWrite) : (s.controlWrite w).trace = s.trace ++ w.closingActions := rfl
@[simp] theorem State.controlWrite_accesses (w : ControlWrite) : (s.controlWrite w).accesses = s.accesses ++ [.writeControl w] := rfl

/-! ### construct -/

@[simp] theorem State.construct_ws : s.construct.ws = s.cfg.wsReset := rfl
@[simp] theorem State.construct_ah : s.construct.ah = s.cfg.ahReset := rfl
@[simp] theorem State.construct_ta : s.construct.ta = s.cfg.taReset := rfl
@[simp] theorem State.construct_status : s.construct.status = s.status := rfl
@[simp] theorem State.construct_data : s.construct.data = s.data := rfl
@[simp] theorem State.construct_ctrl : s.construct.ctrl = s.ctrl := rfl
@[simp] theorem State.construct_sla : s.construct.sla = s.sla := rfl
@[simp] theorem State.construct_lines : s.construct.lines = s.lines := rfl
@[simp] theorem State.construct_cfg : s.construct.cfg = s.cfg := rfl
@[simp] theorem State.construct_inputs : s.construct.inputs = s.inputs := rfl
@[simp] theorem State.construct_answers : s.construct.answers = s.answers := rfl
@[simp] theorem State.construct_draws : s.construct.draws = s.draws := rfl
@[simp] theorem State.construct_trace : s.construct.trace = s.trace := rfl
@[simp] theorem State.construct_accesses : s.construct.accesses = s.accesses := rfl

/-! ### disable -/

@[simp] theorem State.disable_ws : s.disable.ws = s.ws := rfl
@[simp] theorem State.disable_ah : s.disable.ah = s.ah := rfl
@[simp] theorem State.disable_ta : s.disable.ta = s.ta := rfl
@[simp] theorem State.disable_status : s.disable.status = s.status := rfl
@[simp] theorem State.disable_data : s.disable.data = s.data := rfl
@[simp] theorem State.disable_ctrl : s.disable.ctrl = Ctrl.disabled := rfl
@[simp] theorem State.disable_sla : s.disable.sla = 0x00#8 := rfl
@[simp] theorem State.disable_lines : s.disable.lines = .floating := rfl
@[simp] theorem State.disable_cfg : s.disable.cfg = s.cfg := rfl
@[simp] theorem State.disable_inputs : s.disable.inputs = s.inputs := rfl
@[simp] theorem State.disable_answers : s.disable.answers = s.answers := rfl
@[simp] theorem State.disable_draws : s.disable.draws = s.draws := rfl
@[simp] theorem State.disable_trace : s.disable.trace = s.trace := rfl
@[simp] theorem State.disable_accesses : s.disable.accesses = s.accesses := rfl

/-! ### enable -/

@[simp] theorem State.enable_ws (a : SlaveAddr) : (s.enable a).ws = s.ws := rfl
@[simp] theorem State.enable_ah (a : SlaveAddr) : (s.enable a).ah = s.ah := rfl
@[simp] theorem State.enable_ta (a : SlaveAddr) : (s.enable a).ta = s.ta := rfl
@[simp] theorem State.enable_status (a : SlaveAddr) : (s.enable a).status = s.status := rfl
@[simp] theorem State.enable_data (a : SlaveAddr) : (s.enable a).data = s.data := rfl
@[simp] theorem State.enable_ctrl (a : SlaveAddr) : (s.enable a).ctrl = Ctrl.initialized := rfl
@[simp] theorem State.enable_sla (a : SlaveAddr) : (s.enable a).sla = slaveAddressWord a := rfl
@[simp] theorem State.enable_lines (a : SlaveAddr) : (s.enable a).lines = .pulledUpInput := rfl
@[simp] theorem State.enable_cfg (a : SlaveAddr) : (s.enable a).cfg = s.cfg := rfl
@[simp] theorem State.enable_inputs (a : SlaveAddr) : (s.enable a).inputs = s.inputs := rfl
@[simp] theorem State.enable_answers (a : SlaveAddr) : (s.enable a).answers = s.answers := rfl
@[simp] theorem State.enable_draws (a : SlaveAddr) : (s.enable a).draws = s.draws := rfl
@[simp] theorem State.enable_trace (a : SlaveAddr) : (s.enable a).trace = s.trace := rfl
@[simp] theorem State.enable_accesses (a : SlaveAddr) : (s.enable a).accesses = s.accesses := rfl

/-! ### forgetBus -/

@[simp] theorem State.forgetBus_ws : s.forgetBus.ws = s.ws := rfl
@[simp] theorem State.forgetBus_ah : s.forgetBus.ah = s.ah := rfl
@[simp] theorem State.forgetBus_ta : s.forgetBus.ta = s.ta := rfl
@[simp] theorem State.forgetBus_status : s.forgetBus.status = Config.unspecifiedStatus s.draws := rfl
@[simp] theorem State.forgetBus_data : s.forgetBus.data = Config.unspecifiedData s.draws := rfl
@[simp] theorem State.forgetBus_ctrl : s.forgetBus.ctrl = s.ctrl := rfl
@[simp] theorem State.forgetBus_sla : s.forgetBus.sla = s.sla := rfl
@[simp] theorem State.forgetBus_lines : s.forgetBus.lines = s.lines := rfl
@[simp] theorem State.forgetBus_cfg : s.forgetBus.cfg = s.cfg := rfl
@[simp] theorem State.forgetBus_inputs : s.forgetBus.inputs = s.inputs := rfl
@[simp] theorem State.forgetBus_answers : s.forgetBus.answers = s.answers := rfl
@[simp] theorem State.forgetBus_draws : s.forgetBus.draws = s.draws + 1 := rfl
@[simp] theorem State.forgetBus_trace : s.forgetBus.trace = s.trace := rfl
@[simp] theorem State.forgetBus_accesses : s.forgetBus.accesses = s.accesses := rfl

/-! ### The fields of `CTRL` under its updates -/

@[simp] theorem Ctrl.setPending_pending (c : Ctrl) : c.setPending.pending = true := rfl
@[simp] theorem Ctrl.setPending_ackEn (c : Ctrl) : c.setPending.ackEn = c.ackEn := rfl
@[simp] theorem Ctrl.setPending_moduleEn (c : Ctrl) : c.setPending.moduleEn = c.moduleEn := rfl
@[simp] theorem Ctrl.setPending_intEn (c : Ctrl) : c.setPending.intEn = c.intEn := rfl
@[simp] theorem Ctrl.written_pending (c : Ctrl) (w : ControlWrite) : (c.written w).pending = false := rfl
@[simp] theorem Ctrl.written_ackEn (c : Ctrl) (w : ControlWrite) : (c.written w).ackEn = (w.ackEn || c.ackEn) := rfl
@[simp] theorem Ctrl.written_moduleEn (c : Ctrl) (w : ControlWrite) : (c.written w).moduleEn = c.moduleEn := rfl
@[simp] theorem Ctrl.written_intEn (c : Ctrl) (w : ControlWrite) : (c.written w).intEn = c.intEn := rfl
@[simp] theorem ControlWrite.clearOnly_stop : ControlWrite.clearOnly.stop = false := rfl
@[simp] theorem ControlWrite.clearOnly_ackEn : ControlWrite.clearOnly.ackEn = false := rfl
@[simp] theorem ControlWrite.withStop_stop : ControlWrite.withStop.stop = true := rfl
@[simp] theorem ControlWrite.withStop_ackEn : ControlWrite.withStop.ackEn = false := rfl
@[simp] theorem ControlWrite.withAckEn_stop : ControlWrite.withAckEn.stop = false := rfl
@[simp] theorem ControlWrite.withAckEn_ackEn : ControlWrite.withAckEn.ackEn = true := rfl

@[simp] theorem Ctrl.disabled_pending : Ctrl.disabled.pending = false := rfl
@[simp] theorem Ctrl.disabled_ackEn : Ctrl.disabled.ackEn = false := rfl
@[simp] theorem Ctrl.disabled_moduleEn : Ctrl.disabled.moduleEn = false := rfl
@[simp] theorem Ctrl.disabled_intEn : Ctrl.disabled.intEn = false := rfl
@[simp] theorem Ctrl.initialized_pending : Ctrl.initialized.pending = false := rfl
@[simp] theorem Ctrl.initialized_ackEn : Ctrl.initialized.ackEn = true := rfl
@[simp] theorem Ctrl.initialized_moduleEn : Ctrl.initialized.moduleEn = true := rfl
@[simp] theorem Ctrl.initialized_intEn : Ctrl.initialized.intEn = true := rfl

end

end Sys2Proof.Machine
end

