-- ==== Sys2Proof/Laws/Ops.lean ====
section
/-! SUPPORT. One lemma for each shared operation of Machine/Ops.lean that says all it can do, and what a trace shows of it. -/

namespace Sys2Proof.Machine

/-! ### Traces -/

@[simp] theorem adapterCalls_append (x y : List Action) : adapterCalls (x ++ y) = adapterCalls x ++ adapterCalls y :=
  List.filter_append ..

@[simp] theorem adapterCalls_nil : adapterCalls [] = [] := rfl

@[simp] theorem adapterCalls_cons (a : Action) (x : List Action) :
    adapterCalls (a :: x) = if a.isAdapterCall then a :: adapterCalls x else adapterCalls x :=
  List.filter_cons

theorem lastSetAddress_append_none {y : List Action} (h : y.filterMap Action.addressOperand = []) (x : List Action) :
    lastSetAddress (x ++ y) = lastSetAddress x := by
  simp [lastSetAddress, h]

theorem lastSetAddress_append_setAddress (x : List Action) (a : Addr) :
    lastSetAddress (x ++ [.setAddress a]) = some a := by
  simp [lastSetAddress, Action.addressOperand]

/-! ### The operations that only record -/

@[simp] theorem State.record_record (x y : List Action) (p q : List Access) (s : State) :
    (s.record x p).record y q = s.record (x ++ y) (p ++ q) := by
  simp [State.record]

theorem State.record_nil (s : State) : s.record [] [] = s := by simp [State.record]

@[simp] theorem State.enter_eq (s : State) : s.enter = s.record [] [.readStatus] := rfl
@[simp] theorem State.enterData_eq (s : State) : s.enterData = s.record [] [.readStatus, .readData] := rfl
@[simp] theorem State.listStop_eq (s : State) : s.listStop = s.record [.stop] [] := rfl
@[simp] theorem State.adapterCall_eq (a : Action) (s : State) : s.adapterCall a = s.record [a] [.adapterCall a] := rfl
@[simp] theorem State.adapterSetAddress_eq (a : Addr) (s : State) :
    s.adapterSetAddress a = s.record [.setAddress a] [.adapterCall (.setAddress a)] := rfl
@[simp] theorem State.adapterSetByte_eq (v : Byte) (s : State) :
    s.adapterSetByte v = s.record [.setByte v] [.adapterCall (.setByte v)] := rfl
@[simp] theorem State.adapterFlush_eq (s : State) : s.adapterFlush = s.record [.flush] [.adapterCall .flush] := rfl

@[simp] theorem hookActions_true (a : Action) : hookActions true a = [a] := rfl
@[simp] theorem hookActions_false (a : Action) : hookActions false a = [] := rfl

/-- A hook records itself or nothing. -/
theorem hookActions_cases (present : Bool) (a : Action) :
    hookActions present a = [a] ∨ hookActions present a = [] := by
  cases present <;> simp

@[simp] theorem State.hook_eq (a : Action) (s : State) :
    s.hook a = s.record (hookActions s.cfg.hooks a) ((hookActions s.cfg.hooks a).map .signalHook) := rfl

/-- The low byte: registers first, then the call unless the address is the sentinel. -/
theorem State.assembleLow_eq (b : Byte) (s : State) :
    s.assembleLow b = (s.setTarget (assembleAddress s.ah b)).record
      (if assembleAddress s.ah b = sentinel then [] else [.setAddress (assembleAddress s.ah b)])
      (if assembleAddress s.ah b = sentinel then [] else [.adapterCall (.setAddress (assembleAddress s.ah b))]) := by
  unfold State.assembleLow
  dsimp only
  split <;> simp [*, State.record_nil]

/-- A stop changes no register; it flushes or requests the exit. -/
theorem State.commitOrExit_eq (s : State) :
    s.commitOrExit = s.record
      (if s.ta = sentinel then hookActions s.cfg.hooks .hookExitRequest else [.flush])
      (if s.ta = sentinel then (hookActions s.cfg.hooks .hookExitRequest).map .signalHook else [.adapterCall .flush]) := by
  unfold State.commitOrExit
  split <;> rfl

theorem State.dataEvent_hi {s : State} (h : s.ws = .hi) (b : Byte) : s.dataEvent b = s.captureHigh b := by
  simp [State.dataEvent, h]
theorem State.dataEvent_lo {s : State} (h : s.ws = .lo) (b : Byte) : s.dataEvent b = s.assembleLow b := by
  simp [State.dataEvent, h]
theorem State.dataEvent_data {s : State} (h : s.ws = .data) (b : Byte) :
    s.dataEvent b = s.record [.setByte b] [.adapterCall (.setByte b)] := by
  simp [State.dataEvent, h]

/-- A data event is one of its three cases. -/
theorem State.dataEvent_cases (b : Byte) (s : State) :
    (s.ws = .hi ∧ s.dataEvent b = s.captureHigh b) ∨
    (s.ws = .lo ∧ s.dataEvent b = s.assembleLow b) ∨
    (s.ws = .data ∧ s.dataEvent b = s.record [.setByte b] [.adapterCall (.setByte b)]) := by
  cases h : s.ws with
  | hi => exact .inl ⟨rfl, State.dataEvent_hi h b⟩
  | lo => exact .inr (.inl ⟨rfl, State.dataEvent_lo h b⟩)
  | data => exact .inr (.inr ⟨rfl, State.dataEvent_data h b⟩)

/-- A byte is supplied: one call, its answer to DATA. -/
theorem State.supplyByte_eq (s : State) : s.supplyByte = s.adapterGetByte.writeData s.nextAnswer := rfl

@[simp] theorem State.nextAnswer_record (acts : List Action) (accs : List Access) (s : State) :
    (s.record acts accs).nextAnswer = s.nextAnswer := rfl

/-- An answer the environment lists is the answer. -/
theorem State.nextAnswer_cons {s : State} {v : Byte} {rest : List Byte} (h : s.answers = v :: rest) : s.nextAnswer = v := by
  simp [State.nextAnswer, h]

/-! ### The operations of `CTRL` -/

@[simp] theorem closingActions_clearOnly : ControlWrite.closingActions .clearOnly = [.clearPending] := rfl
@[simp] theorem closingActions_withStop : ControlWrite.closingActions .withStop = [.clearPending] := rfl
@[simp] theorem closingActions_withAckEn : ControlWrite.closingActions .withAckEn = [.ackEnSet, .clearPending] := rfl

/-- The last action of every control write clears the pending flag. -/
theorem closingActions_cases (w : ControlWrite) :
    w.closingActions = [.clearPending] ∨ w.closingActions = [.ackEnSet, .clearPending] := by
  unfold ControlWrite.closingActions
  split <;> simp

theorem Ctrl.fires_iff (c : Ctrl) : c.fires = true ↔ c.pending = true ∧ c.intEn = true ∧ c.moduleEn = true := by
  simp [Ctrl.fires, and_assoc]

theorem Ctrl.mayRaise_iff (c : Ctrl) : c.mayRaise = true ↔ c.moduleEn = true ∧ c.pending = false := by
  simp [Ctrl.mayRaise]

end Sys2Proof.Machine
end

