-- ==== Sys2Proof/Laws/PerInstr.lean ====
section
/-! SUPPORT. Statements about every instruction as syntax, one lemma for each constructor of `Instr`. -/

namespace Sys2Proof.Laws.EncodeFormat

/-- An event is encoded in format EVT and a host operation in format HOST, under every map (30_encoding.md rules R60,
R68). -/
def Statement (i : Instr) : Prop :=
  ∀ m : CondMap, (i.isEvent = true → ∃ w, encode m i = .evt w) ∧ (i.isEvent = false → ∃ w, encode m i = .host w)

theorem berr : Statement .berr := fun _ => ⟨fun _ => ⟨_, rfl⟩, nofun⟩
theorem amw : Statement .amw := fun _ => ⟨fun _ => ⟨_, rfl⟩, nofun⟩
theorem amgc : Statement .amgc := fun _ => ⟨fun _ => ⟨_, rfl⟩, nofun⟩
theorem rxd (b : Byte) : Statement (.rxd b) := fun _ => ⟨fun _ => ⟨_, rfl⟩, nofun⟩
theorem rxgc (b : Byte) : Statement (.rxgc b) := fun _ => ⟨fun _ => ⟨_, rfl⟩, nofun⟩
theorem stop : Statement .stop := fun _ => ⟨fun _ => ⟨_, rfl⟩, nofun⟩
theorem amr : Statement .amr := fun _ => ⟨fun _ => ⟨_, rfl⟩, nofun⟩
theorem txa : Statement .txa := fun _ => ⟨fun _ => ⟨_, rfl⟩, nofun⟩
theorem txn : Statement .txn := fun _ => ⟨fun _ => ⟨_, rfl⟩, nofun⟩
theorem txl : Statement .txl := fun _ => ⟨fun _ => ⟨_, rfl⟩, nofun⟩
theorem unk (c : Byte) : Statement (.unk c) := fun _ => ⟨fun _ => ⟨_, rfl⟩, nofun⟩
theorem reset : Statement .reset := fun _ => ⟨nofun, fun _ => ⟨_, rfl⟩⟩
theorem init (a : SlaveAddr) : Statement (.init a) := fun _ => ⟨nofun, fun _ => ⟨_, rfl⟩⟩
theorem shdn : Statement .shdn := fun _ => ⟨nofun, fun _ => ⟨_, rfl⟩⟩

end Sys2Proof.Laws.EncodeFormat
end

