-- ==== Sys2Proof/Laws/Step.lean ====
section
/-! SUPPORT. What a step can do, said once: the effect of each event before the return, the inversion of `exec` and of
`step`, and the induction over a run. -/

namespace Sys2Proof.Machine

/-- What an event does before its control write; nothing, for a host operation. -/
def eventEffect (i : Instr) (s : State) : State :=
  match i with
  | .berr => s.enter.listStop.hook .hookBusError
  | .amw | .amgc => s.enter.startWrite
  | .rxd b | .rxgc b => s.enterData.dataEvent b
  | .stop => s.enter.commitOrExit
  | .amr | .txa => s.enter.supplyByte
  | .txn | .txl => s.enter
  | .unk c => s.enter.hook (.hookUnrecognized c)
  | .reset | .init _ | .shdn => s

/-- The control write that ends an event. -/
def eventReturn (i : Instr) : ControlWrite :=
  match i with
  | .berr => .withStop
  | .txn | .txl => .withAckEn
  | .amw | .amgc | .rxd _ | .rxgc _ | .stop | .amr | .txa | .unk _ | .reset | .init _ | .shdn => .clearOnly

/-- Every event performs its effect and returns. -/
theorem exec_of_isEvent {i : Instr} (h : i.isEvent = true) (s : State) :
    exec i s = .next ((eventEffect i s).controlWrite (eventReturn i)) := by
  cases i <;> first | rfl | cases h

/-- The actions of an event before its control write. -/
def eventActions (i : Instr) (s : State) : List Action :=
  match i with
  | .berr => .stop :: hookActions s.cfg.hooks .hookBusError
  | .rxd b | .rxgc b =>
    match s.ws with
    | .hi => []
    | .lo => if assembleAddress s.ah b = sentinel then [] else [.setAddress (assembleAddress s.ah b)]
    | .data => [.setByte b]
  | .stop => if s.ta = sentinel then hookActions s.cfg.hooks .hookExitRequest else [.flush]
  | .amr | .txa => [.getByte s.nextAnswer, .dataWrite s.nextAnswer]
  | .unk c => hookActions s.cfg.hooks (.hookUnrecognized c)
  | .amw | .amgc | .txn | .txl | .reset | .init _ | .shdn => []

/-- The accesses of an event before its control write; none, for a host operation. -/
def eventAccesses (i : Instr) (s : State) : List Access :=
  match i with
  | .berr => .readStatus :: (hookActions s.cfg.hooks .hookBusError).map .signalHook
  | .rxd b | .rxgc b =>
    match s.ws with
    | .hi => [.readStatus, .readData, .writeRegisters]
    | .lo =>
      if assembleAddress s.ah b = sentinel then [.readStatus, .readData, .writeRegisters]
      else [.readStatus, .readData, .writeRegisters, .adapterCall (.setAddress (assembleAddress s.ah b))]
    | .data => [.readStatus, .readData, .adapterCall (.setByte b)]
  | .stop =>
    if s.ta = sentinel then .readStatus :: (hookActions s.cfg.hooks .hookExitRequest).map .signalHook
    else [.readStatus, .adapterCall .flush]
  | .amr | .txa => [.readStatus, .adapterCall (.getByte s.nextAnswer), .writeData s.nextAnswer]
  | .unk c => .readStatus :: (hookActions s.cfg.hooks (.hookUnrecognized c)).map .signalHook
  | .amw | .amgc => [.readStatus, .writeRegisters]
  | .txn | .txl => [.readStatus]
  | .reset | .init _ | .shdn => []

/-- `WS` after an event. -/
def eventWs (i : Instr) (s : State) : WriteState :=
  match i with
  | .amw | .amgc => .hi
  | .rxd _ | .rxgc _ => match s.ws with
    | .hi => .lo
    | .lo | .data => .data
  | .berr | .stop | .amr | .txa | .txn | .txl | .unk _ | .reset | .init _ | .shdn => s.ws

/-- `AH` after an event. -/
def eventAh (i : Instr) (s : State) : Byte :=
  match i with
  | .rxd b | .rxgc b => match s.ws with
    | .hi => b
    | .lo | .data => s.ah
  | .berr | .amw | .amgc | .stop | .amr | .txa | .txn | .txl | .unk _ | .reset | .init _ | .shdn => s.ah

/-- `TA` after an event. -/
def eventTa (i : Instr) (s : State) : Addr :=
  match i with
  | .rxd b | .rxgc b => match s.ws with
    | .hi => captureTarget s.cfg.taOnHiCapture b s.ta
    | .lo => assembleAddress s.ah b
    | .data => s.ta
  | .berr | .amw | .amgc | .stop | .amr | .txa | .txn | .txl | .unk _ | .reset | .init _ | .shdn => s.ta

/-- The event supplies a byte. -/
def suppliesByte : Instr → Bool
  | .amr | .txa => true
  | .berr | .amw | .amgc | .rxd _ | .rxgc _ | .stop | .txn | .txl | .unk _ | .reset | .init _ | .shdn => false

/-- What an event leaves of every field before its control write, said once. -/
theorem eventEffect_eq (i : Instr) (s : State) : eventEffect i s = { s with
    ws := eventWs i s
    ah := eventAh i s
    ta := eventTa i s
    data := if suppliesByte i then s.nextAnswer else s.data
    answers := if suppliesByte i then s.answers.tail else s.answers
    draws := if suppliesByte i then s.draws + 1 else s.draws
    trace := s.trace ++ eventActions i s
    accesses := s.accesses ++ eventAccesses i s } := by
  have data : ∀ b, s.enterData.dataEvent b = { s with
      ws := eventWs (.rxd b) s, ah := eventAh (.rxd b) s, ta := eventTa (.rxd b) s
      trace := s.trace ++ eventActions (.rxd b) s, accesses := s.accesses ++ eventAccesses (.rxd b) s } := by
    intro b
    cases h : s.ws with
    | hi =>
      rw [State.dataEvent_hi (show s.enterData.ws = .hi from h)]
      apply State.ext <;> simp [eventWs, eventAh, eventTa, eventActions, eventAccesses, h]
    | lo =>
      rw [State.dataEvent_lo (show s.enterData.ws = .lo from h), State.assembleLow_eq]
      by_cases hs : assembleAddress s.ah b = sentinel <;> apply State.ext <;>
        simp [eventWs, eventAh, eventTa, eventActions, eventAccesses, h, hs]
    | data =>
      rw [State.dataEvent_data (show s.enterData.ws = .data from h)]
      apply State.ext <;> simp [eventWs, eventAh, eventTa, eventActions, eventAccesses, h]
  have read : s.enter.supplyByte = { s with
      data := s.nextAnswer, answers := s.answers.tail, draws := s.draws + 1
      trace := s.trace ++ eventActions .amr s, accesses := s.accesses ++ eventAccesses .amr s } := by
    rw [State.supplyByte_eq]
    apply State.ext <;> simp [eventActions, eventAccesses]
  cases i with
  | rxd b => exact data b
  | rxgc b => exact data b
  | amr => exact read
  | txa => exact read
  | stop =>
    refine (State.commitOrExit_eq _).trans ?_
    by_cases hs : s.ta = sentinel <;> apply State.ext <;>
      simp [eventWs, eventAh, eventTa, suppliesByte, eventActions, eventAccesses, hs]
  | _ => apply State.ext <;>
      simp [eventEffect, eventWs, eventAh, eventTa, suppliesByte, eventActions, eventAccesses]

@[simp] theorem eventEffect_ws (i : Instr) (s : State) :
    (eventEffect i s).ws = eventWs i s := by
  rw [eventEffect_eq]
@[simp] theorem eventEffect_ah (i : Instr) (s : State) :
    (eventEffect i s).ah = eventAh i s := by
  rw [eventEffect_eq]
@[simp] theorem eventEffect_ta (i : Instr) (s : State) :
    (eventEffect i s).ta = eventTa i s := by
  rw [eventEffect_eq]
@[simp] theorem eventEffect_status (i : Instr) (s : State) :
    (eventEffect i s).status = s.status := by
  rw [eventEffect_eq]
@[simp] theorem eventEffect_data (i : Instr) (s : State) :
    (eventEffect i s).data = if suppliesByte i then s.nextAnswer else s.data := by
  rw [eventEffect_eq]
@[simp] theorem eventEffect_ctrl (i : Instr) (s : State) :
    (eventEffect i s).ctrl = s.ctrl := by
  rw [eventEffect_eq]
@[simp] theorem eventEffect_sla (i : Instr) (s : State) :
    (eventEffect i s).sla = s.sla := by
  rw [eventEffect_eq]
@[simp] theorem eventEffect_lines (i : Instr) (s : State) :
    (eventEffect i s).lines = s.lines := by
  rw [eventEffect_eq]
@[simp] theorem eventEffect_cfg (i : Instr) (s : State) :
    (eventEffect i s).cfg = s.cfg := by
  rw [eventEffect_eq]
@[simp] theorem eventEffect_inputs (i : Instr) (s : State) :
    (eventEffect i s).inputs = s.inputs := by
  rw [eventEffect_eq]
@[simp] theorem eventEffect_answers (i : Instr) (s : State) :
    (eventEffect i s).answers = if suppliesByte i then s.answers.tail else s.answers := by
  rw [eventEffect_eq]
@[simp] theorem eventEffect_draws (i : Instr) (s : State) :
    (eventEffect i s).draws = if suppliesByte i then s.draws + 1 else s.draws := by
  rw [eventEffect_eq]
@[simp] theorem eventEffect_trace (i : Instr) (s : State) :
    (eventEffect i s).trace = s.trace ++ eventActions i s := by
  rw [eventEffect_eq]
@[simp] theorem eventEffect_accesses (i : Instr) (s : State) :
    (eventEffect i s).accesses = s.accesses ++ eventAccesses i s := by
  rw [eventEffect_eq]

/-- What a next state of `exec` is: an event's effect and return, or one of the three host operations. -/
theorem exec_cases {i : Instr} {s t : State} (h : exec i s = .next t) :
    (i.isEvent = true ∧ t = (eventEffect i s).controlWrite (eventReturn i)) ∨
    (i = .reset ∧ t = s.construct.disable.forgetBus) ∨
    (∃ a, i = .init a ∧ s.ctrl.moduleEn = false ∧ t = s.construct.enable a) ∨
    (i = .shdn ∧ t = s.disable) := by
  by_cases hi : i.isEvent = true
  · rw [exec_of_isEvent hi] at h
    cases h
    exact .inl ⟨hi, rfl⟩
  · cases i with
    | reset => cases h; exact .inr (.inl ⟨rfl, rfl⟩)
    | shdn => cases h; exact .inr (.inr (.inr ⟨rfl, rfl⟩))
    | init a =>
      simp only [exec, execInit] at h
      split at h
      · cases h
      · cases h; exact .inr (.inr (.inl ⟨a, rfl, Bool.eq_false_iff.mpr ‹_›, rfl⟩))
    | _ => exact absurd rfl hi

/-- A sequence in two parts. -/
theorem execAll_append {is js : List Instr} {s t : State} (h : execAll is s = .next t) :
    execAll (is ++ js) s = execAll js t := by
  induction is generalizing s with
  | nil => cases h; rfl
  | cons i is ih =>
    simp only [execAll, List.cons_append] at h ⊢
    split at h
    · exact ih h
    · cases h
    · cases h

/-- The event a condition decodes to is an event. -/
theorem isEvent_decodeEvent (m : CondMap) (w : BitVec 16) : (decodeEvent m w).isEvent = true := by
  unfold decodeEvent
  split
  · rename_i k _
    cases k <;> rfl
  · rfl

/-- A host word decodes to a host operation. -/
theorem isEvent_decodeHost {w : BitVec 9} {i : Instr} (h : decodeHost w = .ok i) : i.isEvent = false := by
  unfold decodeHost at h
  split_ifs at h <;> cases h <;> rfl

/-- What a next state of `step` is: the handler's return from the pending event, a raise, an idle turn, or a host
operation. -/
theorem step_cases {s t : State} (h : step s = .next t) :
    (∃ s₀, s.handlerFires = true ∧ (s₀ = s ∨ ∃ rest, s.inputs = .handlerTurn :: rest ∧ s₀ = { s with inputs := rest }) ∧
      t = (eventEffect s.pendingEvent s₀).controlWrite (eventReturn s.pendingEvent)) ∨
    (∃ c d rest, s.inputs = .condition c d :: rest ∧ s.ctrl.moduleEn = true ∧ s.ctrl.pending = false ∧
      t = State.raise c d { s with inputs := rest }) ∨
    (∃ rest, s.inputs = .handlerTurn :: rest ∧ s.handlerFires = false ∧ t = { s with inputs := rest }) ∨
    (∃ w rest i, s.inputs = .firmware w :: rest ∧ decodeHost w = .ok i ∧ i.isEvent = false ∧
      exec i { s with inputs := rest } = .next t) := by
  have handled : ∀ {s₀ : State}, handle s₀ = .next t → t = (eventEffect s₀.pendingEvent s₀).controlWrite (eventReturn s₀.pendingEvent) := by
    intro s₀ h
    rw [handle, State.pendingEvent, exec_of_isEvent (isEvent_decodeEvent _ _)] at h
    cases h
    rfl
  unfold step at h
  split at h
  · split at h
    · exact .inl ⟨s, ‹_›, .inl rfl, handled h⟩
    · cases h
  · rename_i c d rest hin
    split at h
    · exact .inl ⟨s, ‹_›, .inl rfl, handled h⟩
    · simp only [raiseTurn] at h
      split at h
      · rename_i hm
        cases h
        obtain ⟨h1, h2⟩ := (Ctrl.mayRaise_iff _).mp hm
        exact .inr (.inl ⟨c, d, rest, hin, h1, h2, rfl⟩)
      · split at h <;> cases h
  · rename_i rest hin
    unfold handlerTurn at h
    split at h
    · exact .inl ⟨_, ‹_›, .inr ⟨rest, hin, rfl⟩, handled h⟩
    · cases h
      exact .inr (.inr (.inl ⟨rest, hin, Bool.eq_false_iff.mpr ‹_›, rfl⟩))
  · rename_i w rest hin
    unfold firmwareTurn at h
    split at h
    · exact .inr (.inr (.inr ⟨w, rest, _, hin, ‹_›, isEvent_decodeHost ‹_›, h⟩))
    · cases h

/-- The first step of a run, on any machine behind the host's interface. -/
theorem coreRun_succ {M : Host.Core} {s u : M.State} (h : M.step s = .next u) (k : Nat) :
    M.run (k + 1) s = M.run k u := by
  simp only [Host.Core.run, h]

/-- The first step of a run that answers a next state. -/
theorem run_succ {s u : State} (h : step s = .next u) (k : Nat) :
    Host.Core.run Sys2Proof.core (k + 1) s = Host.Core.run Sys2Proof.core k u :=
  coreRun_succ (M := Sys2Proof.core) h k

/-- A run of `k + 1` steps that answers a next state began with a step that did. -/
theorem exists_step_of_coreRun_succ {M : Host.Core} {s t : M.State} {k : Nat} (h : M.run (k + 1) s = .next t) :
    ∃ u, M.step s = .next u ∧ M.run k u = .next t := by
  simp only [Host.Core.run] at h
  split at h
  · exact ⟨_, ‹_›, h⟩
  · cases h
  · cases h

/-- The same for this machine. -/
theorem exists_step_of_run_succ {s t : State} {k : Nat} (h : Host.Core.run Sys2Proof.core (k + 1) s = .next t) :
    ∃ u, step s = .next u ∧ Host.Core.run Sys2Proof.core k u = .next t :=
  exists_step_of_coreRun_succ (M := Sys2Proof.core) h

/-- A property that every step keeps holds along every run. -/
theorem run_induction {P : State → Prop} (hstep : ∀ s t, P s → step s = .next t → P t) :
    ∀ (k : Nat) (s t : State), P s → Host.Core.run Sys2Proof.core k s = .next t → P t
  | 0, s, t, hs, h => by cases h; exact hs
  | k + 1, s, t, hs, h => by
    obtain ⟨u, hu, hk⟩ := exists_step_of_run_succ h
    exact run_induction hstep k u t (hstep s u hs hu) hk

/-- Running `j` and then `k` steps. -/
theorem run_add {j k : Nat} {s t u : State} (h : Host.Core.run Sys2Proof.core j s = .next t)
    (h' : Host.Core.run Sys2Proof.core k t = .next u) : Host.Core.run Sys2Proof.core (j + k) s = .next u := by
  induction j generalizing s with
  | zero => cases h; rwa [Nat.zero_add]
  | succ j ih =>
    obtain ⟨v, hv, hj⟩ := exists_step_of_run_succ h
    rw [Nat.add_right_comm]
    exact (run_succ hv _).trans (ih hj)

end Sys2Proof.Machine
end

