-- ==== Sys2Proof/Tests/Slice0.lean ====
section
/-! SUPPORT. Tests: words written out from 30_encoding.md, the ill-formed terms, single-step vectors of 95_test_vectors.md, and
for each obligation with hypotheses a witness that meets them. -/

namespace Sys2Proof.Tests

open Sys2Proof.Machine

/-! ### Decoding: words written out from rules R60, R62, R68 -/

theorem test_decode_berr : decodeTableWord 16 0b0000000011111111 = some .berr := by decide
theorem test_decode_amw : decodeTableWord 16 0b0000000100000000 = some .amw := by decide
theorem test_decode_amgc : decodeTableWord 16 0b0000001000000000 = some .amgc := by decide
theorem test_decode_rxd : decodeTableWord 16 0b0000001110101011 = some (.rxd 0xAB#8) := by decide
theorem test_decode_rxgc : decodeTableWord 16 0b0000010011011110 = some (.rxgc 0xDE#8) := by decide
theorem test_decode_stop : decodeTableWord 16 0b0000010110100101 = some .stop := by decide
theorem test_decode_amr : decodeTableWord 16 0b0000011000000000 = some .amr := by decide
theorem test_decode_txa : decodeTableWord 16 0b0000011111101110 = some .txa := by decide
theorem test_decode_txn : decodeTableWord 16 0b0000100000000000 = some .txn := by decide
theorem test_decode_txl : decodeTableWord 16 0b0000100100000000 = some .txl := by decide
theorem test_decode_unk : decodeTableWord 16 0b0000101000000000 = some (.unk 0x0A#8) := by decide
theorem test_decode_reset : decodeTableWord 9 0b000000000 = some .reset := by decide
theorem test_decode_init : decodeTableWord 9 0b010101010 = some (.init 0x2A#7) := by decide
theorem test_decode_shdn : decodeTableWord 9 0b100000000 = some .shdn := by decide
theorem test_decode_unused_host_op : decodeHost 0b111111111#9 = .error .unusedHostOp := by decide

/-- The map of 93_implementation_defined.md G1, given there as an alternative, as a configuration: codes 0x60, 0xA8, 0xF8. -/
theorem test_decode_alternative_map :
    let m : CondMap := [(0x60#8, .addressMatchWrite), (0x80#8, .dataReceivedAck), (0xA8#8, .addressMatchRead)]
    decodeEvent m 0x6000#16 = .amw ∧ decodeEvent m 0x8034#16 = .rxd 0x34#8 ∧ decodeEvent m 0xA800#16 = .amr ∧
      decodeEvent m 0xF800#16 = .unk 0xF8#8 ∧ decodeEvent m 0x0100#16 = .unk 0x01#8 := by decide

theorem test_encode_words : encode condDecodeDefault (.rxd 0x10#8) = .evt 0x0310#16 ∧
    encode condDecodeDefault .stop = .evt 0x0500#16 ∧ encode condDecodeDefault (.unk 0xF8#8) = .evt 0xF800#16 ∧
    encode condDecodeDefault (.init 0x7F#7) = .host 0x0FF#9 ∧ encode condDecodeDefault .shdn = .host 0x100#9 := by decide

/-! ### WellFormed: an ill-formed term for each check -/

/-- Under a map that names no condition, no condition can be encoded. -/
theorem test_illFormed_conditions : ∀ i ∈ [Instr.berr, .amw, .amgc, .rxd 0#8, .rxgc 0#8, .stop, .amr, .txa, .txn, .txl],
    i.wellFormed [] = false := by decide

/-- A code that stands for a condition is not an unrecognised code. -/
theorem test_illFormed_unk : (Instr.unk 0x03#8).wellFormed condDecodeDefault = false := by decide

theorem test_wellFormed : ∀ i ∈ [Instr.berr, .rxd 0xFF#8, .txl, .unk 0x0A#8, .init 0x00#7, .reset],
    i.wellFormed condDecodeDefault = true := by decide

/-! ### Small states -/

/-- After `RESET; INIT 0x2A` (95_test_vectors.md V-O2). -/
def enabled : State :=
  { State.reset with ctrl := Ctrl.initialized, sla := 0x55#8, lines := .pulledUpInput }

/-- The enabled decoder with `WS`, `AH`, `TA` of a vector. -/
def at3 (ws : WriteState) (ah : Byte) (ta : Addr) : State := { enabled with ws := ws, ah := ah, ta := ta }

/-- `WS`, `AH`, `TA` and the trace of a next state. -/
def regs : Outcome → Option (WriteState × Byte × Addr × List Action)
  | .next t => some (t.ws, t.ah, t.ta, t.trace)
  | .fault _ | .refused _ => none

/-- DATA, `CTRL` packed, and the trace of a next state. -/
def bus : Outcome → Option (Byte × Byte × List Action)
  | .next t => some (t.data, t.ctrl.word, t.trace)
  | .fault _ | .refused _ => none

/-- The registers of a host operation: `WS`, `AH`, `TA`, `CTRL` packed, `SLA`, `LINES`. -/
def hostRegs : Outcome → Option (WriteState × Byte × Addr × Byte × Byte × Lines)
  | .next t => some (t.ws, t.ah, t.ta, t.ctrl.word, t.sla, t.lines)
  | .fault _ | .refused _ => none

/-! ### Single steps: the vectors of 95_test_vectors.md -/

theorem test_amw_W2 : regs (exec .amw (at3 .lo 0x12#8 0x0010#16)) = some (.hi, 0x12#8, 0x0010#16, [.clearPending]) := by
  decide
theorem test_amgc_W4 : regs (exec .amgc (at3 .data 0xFF#8 0xFFFF#16)) = some (.hi, 0xFF#8, 0xFFFF#16, [.clearPending]) := by
  decide
theorem test_rxd_W9 : regs (exec (.rxd 0xFE#8) (at3 .lo 0xFF#8 0x0010#16)) =
    some (.data, 0xFF#8, 0xFFFE#16, [.setAddress 0xFFFE#16, .clearPending]) := by decide
theorem test_rxd_W8_sentinel : regs (exec (.rxd 0xFF#8) (at3 .lo 0xFF#8 0x0010#16)) =
    some (.data, 0xFF#8, 0xFFFF#16, [.clearPending]) := by decide
theorem test_rxgc_W16 : regs (exec (.rxgc 0x40#8) (at3 .hi 0x00#8 0x0000#16)) =
    some (.lo, 0x40#8, 0x0000#16, [.clearPending]) := by decide
theorem test_rxgc_W18 : regs (exec (.rxgc 0xDE#8) (at3 .data 0x40#8 0x4000#16)) =
    some (.data, 0x40#8, 0x4000#16, [.setByte 0xDE#8, .clearPending]) := by decide
theorem test_stop_W24 : regs (exec .stop (at3 .hi 0x00#8 0xFFFE#16)) =
    some (.hi, 0x00#8, 0xFFFE#16, [.flush, .clearPending]) := by decide
theorem test_stop_W23 : regs (exec .stop (at3 .lo 0x12#8 0xFFFF#16)) =
    some (.lo, 0x12#8, 0xFFFF#16, [.hookExitRequest, .clearPending]) := by decide
theorem test_amr_R3 : bus (exec .amr { at3 .lo 0x12#8 0x0010#16 with answers := [0xFF#8] }) =
    some (0xFF#8, 0x0E#8, [.getByte 0xFF#8, .dataWrite 0xFF#8, .clearPending]) := by decide
theorem test_txa_R5 : bus (exec .txa { at3 .data 0x00#8 0x0010#16 with data := 0xEE#8, answers := [0x01#8] }) =
    some (0x01#8, 0x0E#8, [.getByte 0x01#8, .dataWrite 0x01#8, .clearPending]) := by decide
theorem test_txn_R7 : bus (exec .txn { at3 .data 0x00#8 0x0010#16 with ctrl := ⟨true, false, true, true⟩ }) =
    some (0x00#8, 0x0E#8, [.ackEnSet, .clearPending]) := by decide
theorem test_txl_R8 : regs (exec .txl (at3 .hi 0x00#8 0xFFFF#16)) =
    some (.hi, 0x00#8, 0xFFFF#16, [.ackEnSet, .clearPending]) := by decide
theorem test_berr_E1 : regs (exec .berr (at3 .lo 0x12#8 0x0010#16)) =
    some (.lo, 0x12#8, 0x0010#16, [.stop, .hookBusError, .clearPending]) := by decide
/-- Rule R144 (1), (6), (7): the hook, then one control write with the strobe. -/
theorem test_berr_R144 : (match exec .berr (at3 .lo 0x12#8 0x0010#16) with
    | .next t => some t.accesses
    | .fault _ | .refused _ => none) =
    some [.readStatus, .signalHook .hookBusError, .writeControl { stop := true, ackEn := false }] := by decide
theorem test_unk_E5 : regs (exec (.unk 0xFF#8) (at3 .lo 0x12#8 0x0010#16)) =
    some (.lo, 0x12#8, 0x0010#16, [.hookUnrecognized 0xFF#8, .clearPending]) := by decide
theorem test_reset_O1 : hostRegs (exec .reset (at3 .data 0x12#8 0x1234#16)) =
    some (.hi, 0x00#8, 0x0000#16, 0x00#8, 0x00#8, .floating) := by decide
theorem test_init_O4 : hostRegs (exec (.init 0x7F#7) State.reset) =
    some (.hi, 0x00#8, 0x0000#16, 0x0E#8, 0xFF#8, .pulledUpInput) := by decide
theorem test_init_O9_refused : (match exec (.init 0x10#7) enabled with
    | .refused r => r == .initializeWhileEnabled
    | _ => false) = true := by decide
theorem test_shdn_O6 : hostRegs (exec .shdn (at3 .data 0x12#8 0x1234#16)) =
    some (.data, 0x12#8, 0x1234#16, 0x00#8, 0x00#8, .floating) := by decide

/-- The capture of V-H6: under HIGH_HALF the byte 0xFF over 0x12FF gives the sentinel; V-H2 under ZEXT_LOW. -/
theorem test_capture_H6_H2 : captureTarget .highHalf 0xFF#8 0x12FF#16 = 0xFFFF#16 ∧
    captureTarget .zextLow 0x12#8 0xFFFF#16 = 0x0012#16 := by decide

/-- The expansions of rule R69: scenario S-2 is `EXIT`, and `READ 3`. -/
theorem test_pseudo_instructions : pseudoExit = [.amw, .rxd 0xFF#8, .rxd 0xFF#8, .stop] ∧
    pseudoRead 3 = [.amr, .txa, .txa, .txn] ∧
    pseudoGcWrite 0x4000#16 [0xDE#8] = [.amgc, .rxgc 0x40#8, .rxgc 0x00#8, .rxgc 0xDE#8, .stop] := by decide

/-- The cause codes of rule R140's table. -/
theorem test_cause_codes : causeCode .hookBusError = some 1 ∧ causeCode (.hookUnrecognized 0x0A#8) = some 2 ∧
    causeCode .hookExitRequest = none := by decide

/-- Rule R65's worked slave addresses. -/
theorem test_slave_addresses : [0x00#7, 0x01#7, 0x10#7, 0x2A#7, 0x55#7, 0x7F#7].map slaveAddressWord =
    [0x01#8, 0x03#8, 0x21#8, 0x55#8, 0xAB#8, 0xFF#8] := by decide

/-- The hardware encodings of rules R10 and R30. -/
theorem test_register_codes : [WriteState.hi, .lo, .data].map writeStateCode = [0#2, 1#2, 2#2] ∧
    [Lines.floating, .pulledUpInput].map linesCode = [0#1, 1#1] := by decide

/-- A word placed on the reset state runs next: the handler's. -/
theorem test_placed_event_runs :
    regs (step (State.reset.withFetchWord 16 0x0312)) = some (.lo, 0x12#8, 0x0000#16, [.clearPending]) := by decide

/-- A word placed on the reset state runs next: the host firmware's. -/
theorem test_placed_host_word_runs : hostRegs (step (State.reset.withFetchWord 9 0x0AA)) =
    some (.hi, 0x00#8, 0x0000#16, 0x0E#8, 0x55#8, .pulledUpInput) := by decide

/-! ### The simulator adapter (rule R56), on the call traces of programs P1 and P2 -/

theorem test_simulator_P1 : Simulator.replay ⟨0x0000#16, [], 0⟩
    [.setAddress 0x0010#16, .clearPending, .setByte 0xAB#8, .clearPending, .setByte 0xCD#8, .clearPending, .flush] =
      some ⟨0x0012#16, [(0x0010, 0xAB#8), (0x0011, 0xCD#8)], 1⟩ := by decide

theorem test_simulator_P2_answers : Simulator.replay
    ⟨0x0000#16, [(0x0100, 0x11#8), (0x0101, 0x22#8), (0x0102, 0x33#8), (0x0103, 0x44#8)], 0⟩
    [.setAddress 0x0100#16, .flush, .getByte 0x11#8, .getByte 0x22#8, .getByte 0x33#8] =
      some ⟨0x0103#16, [(0x0100, 0x11#8), (0x0101, 0x22#8), (0x0102, 0x33#8), (0x0103, 0x44#8)], 1⟩ := by decide

theorem test_simulator_wraps : (Simulator.act ⟨0xFFFF#16, [], 0⟩ (.setByte 0x77#8)).map Simulator.pos =
    some 0x0000#16 := by decide

/-! ### Witnesses: each meets the hypotheses of the obligation it names -/

theorem witness_WriteMatchRestartsTheAddress : ∃ i : Instr, i = .amw ∨ i = .amgc := ⟨.amgc, by decide⟩

theorem witness_HighByteIsCaptured : ∃ (s : State) (b : Byte) (i : Instr), (i = .rxd b ∨ i = .rxgc b) ∧ s.ws = .hi :=
  ⟨enabled, 0xFF#8, .rxgc 0xFF#8, by decide⟩

theorem witness_LowByteAssemblesTheAddress : ∃ (s : State) (b : Byte) (i : Instr),
    (i = .rxd b ∨ i = .rxgc b) ∧ s.ws = .lo ∧ s.ah = 0xFF#8 ∧ b = 0xFF#8 :=
  ⟨at3 .lo 0xFF#8 0x0010#16, 0xFF#8, .rxd 0xFF#8, by decide⟩

theorem witness_LowByteAssemblesTheAddress_ordinary : ∃ (s : State) (b : Byte) (i : Instr),
    (i = .rxd b ∨ i = .rxgc b) ∧ s.ws = .lo ∧ ¬(s.ah = 0xFF#8 ∧ b = 0xFF#8) :=
  ⟨at3 .lo 0xFF#8 0x0010#16, 0xFE#8, .rxd 0xFE#8, by decide⟩

theorem witness_StreamedByteGoesToSetByte : ∃ (s : State) (b : Byte) (i : Instr),
    (i = .rxd b ∨ i = .rxgc b) ∧ s.ws = .data :=
  ⟨at3 .data 0xFF#8 0xFFFF#16, 0x77#8, .rxd 0x77#8, by decide⟩

theorem witness_StopFlushesOrSignalsExit : (at3 .hi 0x00#8 0xFFFE#16).ta ≠ 0xFFFF#16 ∧
    (at3 .data 0xFF#8 0xFFFF#16).ta = 0xFFFF#16 := by decide

theorem witness_TwoAddressBytesAssembleBigEndian : ∃ (hi lo : Byte) (m h l : Instr),
    (m = .amw ∨ m = .amgc) ∧ (h = .rxd hi ∨ h = .rxgc hi) ∧ (l = .rxd lo ∨ l = .rxgc lo) :=
  ⟨0x12#8, 0x34#8, .amw, .rxd 0x12#8, .rxgc 0x34#8, by decide⟩

theorem witness_ReadEventSuppliesOneByte : ∃ (s : State) (i : Instr) (v : Byte) (rest : List Byte),
    (i = .amr ∨ i = .txa) ∧ s.answers = v :: rest :=
  ⟨{ enabled with answers := [0x5A#8] }, .amr, 0x5A#8, [], by decide⟩

theorem witness_EndOfReadRearmsAcknowledgment : ∃ i : Instr, i = .txn ∨ i = .txl := ⟨.txl, by decide⟩

theorem witness_BusErrorLeavesStaleState : targetOf 0xFF#8 0xFE#8 ≠ 0xFFFF#16 := by decide

theorem witness_PowerOnStateIsWhatResetLeaves : (at3 .data 0x12#8 0x1234#16).cfg = State.reset.cfg := by decide

theorem witness_InitializeEnablesFromDisabledMode : State.reset.ctrl.moduleEn = false ∧ enabled.ctrl.moduleEn = true := by
  decide

theorem witness_PackedRegistersAfterHostOperations : State.reset.ctrl.moduleEn = false := by decide

theorem witness_FirstStopTestsTheResetTarget : State.reset.ctrl.moduleEn = false ∧
    ({ defaultConfig with taReset := 0xFFFF#16 } : Config).taReset = 0xFFFF#16 := by decide

/-- The three clauses of `PeripheralRaisesOneCondition`: may raise, disabled, stalled. -/
theorem witness_PeripheralRaisesOneCondition : ∃ s₁ s₂ s₃ : State,
    (s₁.inputs = [.condition 0x00#8 0xFF#8] ∧ s₁.ctrl.moduleEn = true ∧ s₁.ctrl.pending = false) ∧
    (s₂.inputs = [.condition 0x00#8 0xFF#8] ∧ s₂.ctrl.moduleEn = false) ∧
    (s₃.inputs = [.condition 0x00#8 0xFF#8] ∧ s₃.ctrl.moduleEn = true ∧ s₃.ctrl.pending = true ∧ s₃.ctrl.intEn = false) :=
  ⟨{ enabled with inputs := [.condition 0x00#8 0xFF#8] }, { State.reset with inputs := [.condition 0x00#8 0xFF#8] },
    { enabled with inputs := [.condition 0x00#8 0xFF#8], ctrl := ⟨true, true, true, false⟩ }, by decide⟩

/-- A condition pending in the enabled decoder. -/
def pendingState (ins : List Input) : State :=
  { enabled with status := 0x03#8, data := 0x12#8, ctrl := Ctrl.initialized.setPending, inputs := ins }

/-- The three clauses of `StepRunsTheDecodedEvent`. -/
theorem witness_StepRunsTheDecodedEvent :
    ∀ ins ∈ [[], [Input.condition 0x05#8 0x00#8], [.handlerTurn]],
      (pendingState ins).ctrl.pending = true ∧ (pendingState ins).ctrl.intEn = true ∧
      (pendingState ins).ctrl.moduleEn = true ∧ (pendingState ins).inputs = ins := by decide

theorem witness_NothingFiresNothingRuns : ∃ s₁ s₂ : State,
    (¬(s₁.ctrl.pending = true ∧ s₁.ctrl.intEn = true ∧ s₁.ctrl.moduleEn = true) ∧ s₁.inputs = []) ∧
    (¬(s₂.ctrl.pending = true ∧ s₂.ctrl.intEn = true ∧ s₂.ctrl.moduleEn = true) ∧ s₂.inputs = [.handlerTurn]) :=
  ⟨State.reset, { enabled with inputs := [.handlerTurn] }, by decide⟩

/-- The boundary words of the four clauses of `StepRunsTheHostOperation`. -/
theorem witness_StepRunsTheHostOperation : ∃ s : BitVec 9 → State, (∀ w, (s w).inputs = [.firmware w]) ∧
    (127#9).toNat < 128 ∧ 128 ≤ (128#9).toNat ∧ (255#9).toNat < 256 ∧ 256 ≤ (256#9).toNat ∧ (383#9).toNat < 384 ∧
    384 ≤ (384#9).toNat :=
  ⟨fun w => { State.reset with inputs := [.firmware w] }, fun _ => rfl, by decide⟩

theorem witness_PlacedWordRunsNext : decodeTableWord 16 0xFFFF = some (.unk 0xFF#8) ∧
    decodeTableWord 9 0x17F = some .shdn := by decide

theorem witness_ShutdownDropsThePendingCondition : ∃ s : State, s.ctrl.moduleEn = true ∧ s.ctrl.pending = false ∧
    s.inputs = [.condition 0x03#8 0x12#8, .firmware 0x100#9] :=
  ⟨{ enabled with inputs := [.condition 0x03#8 0x12#8, .firmware 0x100#9] }, by decide⟩

theorem witness_DecodeOfEncodeIsTheInstruction : (Instr.rxd 0xFF#8).wellFormed condDecodeDefault = true ∧
    (Instr.unk 0xFF#8).wellFormed condDecodeDefault = true ∧ (Instr.init 0x7F#7).wellFormed condDecodeDefault = true := by
  decide

/-- An event exists: the only hypothesis of `EveryEventCompletes`, `AdapterCallOfEachEvent` and `WriteStateAdvances`. -/
theorem witness_events : (Instr.berr).isEvent = true ∧ (Instr.unk 0x0A#8).isEvent = true := by decide

theorem witness_EveryEventClearsPendingOnceAndLast : (Instr.amr).isEvent = true ∧ enabled.ctrl.moduleEn = true := by decide

theorem witness_EventsWriteOnlyTheirRegisters : ∃ (i : Instr) (s t : State), i.isEvent = true ∧ exec i s = .next t :=
  ⟨.amw, enabled, _, by decide, rfl⟩

theorem witness_EventsWriteOnlyTheirRegisters_clauses :
    (∀ b, Instr.stop ≠ .rxd b ∧ Instr.stop ≠ .rxgc b) ∧ (at3 .lo 0#8 0#16).ws ≠ .hi ∧ (at3 .data 0#8 0#16).ws = .data ∧
    enabled.ws = .hi ∧ enabled.cfg.taOnHiCapture = .hold := by
  refine ⟨fun b => ⟨by simp, by simp⟩, by decide⟩

theorem witness_DataRegisterIsReadByDataEventsOnly : ∃ s t : State,
    (∀ b, s.pendingEvent ≠ .rxd b ∧ s.pendingEvent ≠ .rxgc b) ∧ step s = .next t := by
  refine ⟨{ pendingState [] with status := 0x05#8 }, _, fun b => ?_, rfl⟩
  have h : State.pendingEvent { pendingState [] with status := 0x05#8 } = .stop := by decide
  rw [h]
  exact ⟨by simp, by simp⟩

theorem witness_HooksAreObservationsOnly : ∃ (is : List Instr) (s t : State), s.cfg.hooks = true ∧ execAll is s = .next t :=
  ⟨[.berr, .unk 0x0A#8], enabled, _, by decide, rfl⟩

theorem witness_ExitIsSticky : ∃ (is : List Instr) (s : State), (∀ i ∈ is, i.isEvent = true ∧ i ≠ .amw ∧ i ≠ .amgc) ∧
    s.ws = .data ∧ s.ta = 0xFFFF#16 ∧ s.cfg.hooks = true :=
  ⟨[.stop, .rxd 0x77#8, .amr, .stop], at3 .data 0xFF#8 0xFFFF#16, by decide⟩

/-- The events of the source's scenario S-1. -/
def scenario1 : List (Byte × Byte) :=
  (0x01#8, 0x00#8) :: (0x03#8, 0x00#8) :: (0x03#8, 0x10#8) :: ([(0x03#8, 0xAB#8), (0x04#8, 0xCD#8)] ++ [(0x05#8, 0x00#8)])

theorem witness_WriteTransactionCalls : ∃ s : State, s.ready ∧ isWriteMatchCode s.cfg.condDecode 0x01#8 ∧
    isDataCode s.cfg.condDecode 0x03#8 ∧ isDataCode s.cfg.condDecode 0x04#8 ∧
    condDecode s.cfg.condDecode 0x05#8 = some .stopOrRestart ∧ s.inputs = eventInputs scenario1 ++ [.firmware 0x100#9] :=
  ⟨{ enabled with inputs := eventInputs scenario1 ++ [.firmware 0x100#9] }, ⟨rfl, rfl, rfl⟩, .inl rfl, .inl rfl, .inr rfl,
    rfl, rfl⟩

/-- The sentinel address is met too. -/
theorem witness_WriteTransactionCalls_sentinel : ∃ s : State, s.ready ∧ isWriteMatchCode s.cfg.condDecode 0x02#8 ∧
    isDataCode s.cfg.condDecode 0x04#8 ∧ condDecode s.cfg.condDecode 0x05#8 = some .stopOrRestart ∧
    targetOf 0xFF#8 0xFF#8 = 0xFFFF#16 ∧
    s.inputs = eventInputs ((0x02#8, 0x00#8) :: (0x04#8, 0xFF#8) :: (0x04#8, 0xFF#8) :: ([(0x04#8, 0x77#8)] ++
      [(0x05#8, 0x00#8)])) ++ [] :=
  ⟨{ enabled with
      inputs := eventInputs [(0x02#8, 0x00#8), (0x04#8, 0xFF#8), (0x04#8, 0xFF#8), (0x04#8, 0x77#8), (0x05#8, 0x00#8)] },
    ⟨rfl, rfl, rfl⟩, .inr rfl, .inr rfl, rfl, by decide, rfl⟩

theorem witness_ReadTransactionCalls : ∃ s : State, s.ready ∧ condDecode s.cfg.condDecode 0x06#8 = some .addressMatchRead ∧
    condDecode s.cfg.condDecode 0x07#8 = some .dataTransmittedAck ∧
    isReadEndCode s.cfg.condDecode 0x08#8 ∧ isReadEndCode s.cfg.condDecode 0x09#8 ∧
    s.inputs = eventInputs ((0x06#8, 0x00#8) :: ([(0x00#8, 0x22#8)].map (fun e => (0x07#8, e.1)) ++ [(0x08#8, 0x00#8)])) ++ [] ∧
    s.answers = 0x11#8 :: ([((0x00#8 : Byte), 0x22#8)].map (fun e => e.2) ++ []) :=
  ⟨{ enabled with
      inputs := eventInputs [(0x06#8, 0x00#8), (0x07#8, 0x00#8), (0x08#8, 0x00#8)], answers := [0x11#8, 0x22#8] },
    ⟨rfl, rfl, rfl⟩, rfl, rfl, .inl rfl, .inr rfl, rfl, rfl⟩

/-- Program P2 of 95_test_vectors.md. -/
theorem witness_SeekThenReadCalls : ∃ s : State, s.ready ∧ isWriteMatchCode s.cfg.condDecode 0x01#8 ∧
    isDataCode s.cfg.condDecode 0x03#8 ∧ condDecode s.cfg.condDecode 0x05#8 = some .stopOrRestart ∧
    condDecode s.cfg.condDecode 0x06#8 = some .addressMatchRead ∧
    condDecode s.cfg.condDecode 0x07#8 = some .dataTransmittedAck ∧ isReadEndCode s.cfg.condDecode 0x08#8 ∧
    s.inputs = eventInputs ((0x01#8, 0x00#8) :: (0x03#8, 0x01#8) :: (0x03#8, 0x00#8) :: (0x05#8, 0x00#8) ::
      (0x06#8, 0x00#8) :: ([(0x00#8, 0x22#8), (0x00#8, 0x33#8)].map (fun e => (0x07#8, e.1)) ++ [(0x08#8, 0x00#8)])) ++ [] ∧
    s.answers = 0x11#8 :: ([((0x00#8 : Byte), (0x22#8 : Byte)), (0x00#8, 0x33#8)].map (fun e => e.2) ++ []) ∧
    targetOf 0x01#8 0x00#8 ≠ 0xFFFF#16 :=
  ⟨{ enabled with
      inputs := eventInputs [(0x01#8, 0x00#8), (0x03#8, 0x01#8), (0x03#8, 0x00#8), (0x05#8, 0x00#8), (0x06#8, 0x00#8),
        (0x07#8, 0x00#8), (0x07#8, 0x00#8), (0x08#8, 0x00#8)]
      answers := [0x11#8, 0x22#8, 0x33#8] },
    ⟨rfl, rfl, rfl⟩, .inl rfl, .inl rfl, rfl, rfl, rfl, .inl rfl, rfl, rfl, by decide⟩

theorem witness_AccessesStandInTheOrderOfOneStep : (Instr.berr).isEvent = true ∧ (Instr.txl).isEvent = true ∧
    (Instr.rxgc 0xFF#8).isEvent = true := by decide

/-- An enabled decoder with a condition pending meets the three invariants and takes a step. -/
theorem witness_invariants : ∃ s t : State, ModeConsistent s ∧ SentinelNeverAddressed s ∧ TargetIsLastAddress s ∧
    step s = .next t := by
  refine ⟨pendingState [], _, ⟨by decide, by decide, by decide, by decide, by decide⟩, ?_, ⟨by decide, by decide⟩, rfl⟩
  unfold SentinelNeverAddressed
  decide

/-- A streaming state with an assembled address meets the third invariant in its deciding case. -/
theorem witness_TargetIsLastAddress : TargetIsLastAddress { at3 .data 0x00#8 0x0010#16 with trace := [.setAddress 0x0010#16] } :=
  ⟨by decide, by decide⟩

theorem witness_RunHasEndedExactlyWhenNothingIsLeft : ModeConsistent enabled ∧ enabled.inputs = [] ∧
    enabled.ctrl.pending = false := ⟨⟨by decide, by decide, by decide, by decide, by decide⟩, by decide⟩

theorem witness_EveryRunEnds : (pendingState [.handlerTurn]).turnsLeft < 4 := by decide

end Sys2Proof.Tests
end

/-! SUPPORT. The statements of 00_scope.md: decoding of event words is total, and so are the events. -/

namespace Sys2Proof.Machine

/-! ### Every event word decodes (rules R5, R62, R63) -/

/-- The instruction of a condition can be given to a decoder exactly when some code reports the condition. -/
theorem wellFormed_conditionInstr (m : CondMap) (k : BusCondition) (data : Byte) :
    (conditionInstr k data).wellFormed m = m.reports k := by
  cases k <;> rfl

/-- A code that decodes to a condition is the witness that the map reports it; a code that decodes to none is what an
unrecognised event needs. -/
theorem wellFormed_decodeEvent (m : CondMap) (w : BitVec 16) : (decodeEvent m w).wellFormed m = true := by
  unfold decodeEvent
  split
  next k hk =>
    rw [wellFormed_conditionInstr]
    exact reports_of_condDecode hk
  next hnone => simp [Instr.wellFormed, hnone]

/-- Settles O30: the instruction is the one `decodeEvent` gives, which is well-formed and an event under every map. -/
theorem everyEventWordDecodes : Obligations.EveryEventWordDecodes := by
  intro m w
  exact ⟨decodeEvent m w, rfl, wellFormed_decodeEvent m w, isEvent_decodeEvent m w⟩

/-! ### Every event completes (rule R5) -/

/-- Settles O32: every event performs its effect and returns with one control write. -/
theorem everyEventCompletes : Obligations.EveryEventCompletes := by
  intro i s hi
  exact ⟨_, exec_of_isEvent hi s⟩

end Sys2Proof.Machine

/-! SUPPORT. The statements of 10_state.md: which rule writes which register, the packed registers, and the invariants of the
two modes and of the sentinel. -/

namespace Sys2Proof.Machine

/-! ### The two modes (rules R142, R149, R151) -/

/-- Consistent modes are two: everything off, or everything an enabled peripheral has on, pending condition or not. -/
theorem modeConsistent_iff (s : State) :
    ModeConsistent s ↔
      (s.ctrl = Ctrl.disabled ∧ s.sla = 0x00#8 ∧ s.lines = .floating) ∨
      (s.ctrl.moduleEn = true ∧ s.ctrl.intEn = true ∧ s.ctrl.ackEn = true ∧
        generalCallEnabled s.sla = true ∧ s.lines = .pulledUpInput) := by
  rcases hc : s.ctrl with ⟨pending, ackEn, moduleEn, intEn⟩
  cases moduleEn with
  | false => simp [ModeConsistent, Ctrl.disabled, hc, and_assoc, and_comm, and_left_comm]
  | true => simp [ModeConsistent, Ctrl.disabled, hc]

/-- The disabled mode, as RESET and SHUTDOWN leave it. -/
theorem modeConsistent_of_disabled {s : State} (hctrl : s.ctrl = Ctrl.disabled) (hsla : s.sla = 0x00#8)
    (hlines : s.lines = .floating) : ModeConsistent s :=
  (modeConsistent_iff s).mpr (.inl ⟨hctrl, hsla, hlines⟩)

/-- From an enabled peripheral with consistent modes, a change that leaves `SLA`, `LINES` and the three enables as they are
keeps the modes consistent, whatever it does to `pending`. -/
theorem ModeConsistent.of_enabled {s t : State} (hs : ModeConsistent s) (hen : s.ctrl.moduleEn = true)
    (hmod : t.ctrl.moduleEn = s.ctrl.moduleEn) (hint : t.ctrl.intEn = s.ctrl.intEn)
    (hack : s.ctrl.ackEn = true → t.ctrl.ackEn = true) (hsla : t.sla = s.sla) (hlines : t.lines = s.lines) :
    ModeConsistent t := by
  rcases (modeConsistent_iff s).mp hs with ⟨hctrl, -, -⟩ | ⟨-, hi, ha, hg, hl⟩
  · simp [hctrl] at hen
  · exact (modeConsistent_iff t).mpr (.inr ⟨hmod ▸ hen, hint ▸ hi, hack ha, hsla ▸ hg, hlines ▸ hl⟩)

/-! ### The packed registers (rules R23, R28, R29, R65) -/

/-- `SLA` after INITIALIZE, as a number: twice the address and one more. -/
theorem slaveAddressWord_toNat (a : SlaveAddr) : (slaveAddressWord a).toNat = 2 * a.toNat + 1 := by
  have ha := a.isLt
  have hor : a.toNat <<< 1 ||| 1 = a.toNat <<< 1 + 1 :=
    (Nat.shiftLeft_add_eq_or_of_lt (by decide : 1 < 2 ^ 1) a.toNat).symm
  have hlt : a.toNat <<< 1 < 2 ^ 8 := by rw [Nat.shiftLeft_eq]; omega
  simp only [slaveAddressWord, BitVec.toNat_or, BitVec.toNat_shiftLeft, BitVec.zeroExtend, BitVec.toNat_setWidth]
  rw [Nat.mod_eq_of_lt (by omega : a.toNat < 2 ^ 8), Nat.mod_eq_of_lt hlt]
  rw [Nat.shiftLeft_eq] at hor ⊢
  simpa [Nat.mul_comm] using hor

@[simp] theorem slaveAddress_slaveAddressWord (a : SlaveAddr) : slaveAddress (slaveAddressWord a) = a := by
  apply BitVec.eq_of_toNat_eq
  have ha := a.isLt
  rw [slaveAddress, BitVec.extractLsb'_toNat, slaveAddressWord_toNat, Nat.shiftRight_eq_div_pow]
  omega

@[simp] theorem generalCallEnabled_slaveAddressWord (a : SlaveAddr) : generalCallEnabled (slaveAddressWord a) = true := by
  rw [generalCallEnabled, BitVec.getLsbD, slaveAddressWord_toNat, Nat.testBit_zero]
  simp

/-- The packed `CTRL` word bit by bit: the four stored fields, and 0 in every other bit. -/
theorem Ctrl.getLsbD_word (c : Ctrl) (n : Nat) :
    c.word.getLsbD n = match n with
      | 0 => c.pending
      | 1 => c.ackEn
      | 2 => c.moduleEn
      | 3 => c.intEn
      | _ => false := by
  match n with
  | 0 | 1 | 2 | 3 => simp only [Ctrl.word, BitVec.getLsbD_append]; simp
  | n + 4 => simp only [Ctrl.word, BitVec.getLsbD_append]; simp

/-- Packing what a written word stores drops its upper four bits. -/
theorem Ctrl.word_ofWord (w : Byte) : (Ctrl.ofWord w).word = w &&& 0x0F#8 := by
  apply BitVec.eq_of_getLsbD_eq
  intro n hn
  rw [Ctrl.getLsbD_word, BitVec.getLsbD_and]
  match n with
  | 0 | 1 | 2 | 3 => simp [Ctrl.ofWord]
  | 4 | 5 | 6 | 7 => simp

@[simp] theorem Ctrl.ofWord_word (c : Ctrl) : Ctrl.ofWord c.word = c := by
  simp only [Ctrl.ofWord, Ctrl.getLsbD_word]

@[simp] theorem Ctrl.word_disabled : Ctrl.disabled.word = 0x00#8 := by decide
@[simp] theorem Ctrl.word_initialized : Ctrl.initialized.word = 0x0E#8 := by decide
@[simp] theorem Ctrl.word_initialized_setPending : Ctrl.initialized.setPending.word = 0x0F#8 := by decide

/-! ### Every step keeps the modes consistent -/

/-- The state in which the handler starts is the step's own, but for the input that its turn may have used up. -/
theorem exists_inputs_of_handlerStart {s s₀ : State}
    (h : s₀ = s ∨ ∃ rest, s.inputs = .handlerTurn :: rest ∧ s₀ = { s with inputs := rest }) :
    ∃ ins, s₀ = { s with inputs := ins } := by
  rcases h with rfl | ⟨rest, -, rfl⟩
  · exact ⟨s₀.inputs, rfl⟩
  · exact ⟨rest, rfl⟩

/-- RESET, INITIALIZE and SHUTDOWN each establish one of the two modes, from every state. -/
theorem modeConsistent_of_exec_hostOp {i : Instr} {s t : State} (hi : i.isEvent = false) (h : exec i s = .next t) :
    ModeConsistent t := by
  rcases exec_cases h with ⟨hev, -⟩ | ⟨-, rfl⟩ | ⟨a, -, -, rfl⟩ | ⟨-, rfl⟩
  · simp [hi] at hev
  · exact modeConsistent_of_disabled rfl rfl rfl
  · exact (modeConsistent_iff _).mpr (.inr ⟨rfl, rfl, rfl, generalCallEnabled_slaveAddressWord a, rfl⟩)
  · exact modeConsistent_of_disabled rfl rfl rfl

/-- Settles O43: a handler step and a raise need an enabled peripheral and leave its enables, an idle turn changes no register,
and a host operation establishes a mode. -/
theorem stepKeepsModesConsistent : Obligations.StepKeepsModesConsistent := by
  intro s t hs h
  rcases step_cases h with ⟨s₀, hfires, hs₀, rfl⟩ | ⟨c, d, rest, -, hen, -, rfl⟩ | ⟨rest, -, -, rfl⟩ | ⟨w, rest, i, -, -, hi, h⟩
  · have hen : s.ctrl.moduleEn = true := ((Ctrl.fires_iff _).mp hfires).2.2
    obtain ⟨ins, rfl⟩ := exists_inputs_of_handlerStart hs₀
    exact hs.of_enabled hen (by simp) (by simp) (by simp +contextual) (eventEffect_sla _ _) (eventEffect_lines _ _)
  · exact hs.of_enabled hen rfl rfl id rfl rfl
  · exact hs
  · exact modeConsistent_of_exec_hostOp hi h

/-! ### No step addresses the sentinel (rules R14, R46) -/

/-- A host operation emits no action. -/
theorem trace_of_exec_hostOp {i : Instr} {s t : State} (hi : i.isEvent = false) (h : exec i s = .next t) :
    t.trace = s.trace := by
  rcases exec_cases h with ⟨hev, -⟩ | ⟨-, rfl⟩ | ⟨a, -, -, rfl⟩ | ⟨-, rfl⟩
  · simp [hi] at hev
  · rfl
  · rfl
  · rfl

/-- What an event emits does not depend on what comes next on the inputs. -/
@[simp] theorem eventActions_inputs (i : Instr) (s : State) (ins : List Input) :
    eventActions i { s with inputs := ins } = eventActions i s := rfl

/-- A step leaves the trace as it is, or appends the actions of the pending event and of its return. -/
theorem step_trace {s t : State} (h : step s = .next t) :
    t.trace = s.trace ∨
      t.trace = s.trace ++ eventActions s.pendingEvent s ++ (eventReturn s.pendingEvent).closingActions := by
  rcases step_cases h with ⟨s₀, -, hs₀, rfl⟩ | ⟨c, d, rest, -, -, -, rfl⟩ | ⟨rest, -, -, rfl⟩ | ⟨w, rest, i, -, -, hi, h⟩
  · obtain ⟨ins, rfl⟩ := exists_inputs_of_handlerStart hs₀
    exact .inr (by simp)
  · exact .inl rfl
  · exact .inl rfl
  · exact .inl (trace_of_exec_hostOp hi h :)

theorem setAddress_not_mem_hookActions {present : Bool} {a : Action} (ha : a.isHook = true) (x : Addr) :
    Action.setAddress x ∉ hookActions present a := by
  rcases hookActions_cases present a with e | e
  · rw [e, List.mem_singleton]
    rintro rfl
    cases ha
  · simp [e]

theorem setAddress_not_mem_closingActions (w : ControlWrite) (x : Addr) : Action.setAddress x ∉ w.closingActions := by
  rcases closingActions_cases w with e | e <;> simp [e]

/-- The only address a data event passes to the adapter is the assembled one, and never the sentinel. -/
theorem sentinel_not_mem_dataActions (b : Byte) (s : State) :
    Action.setAddress 0xFFFF#16 ∉ eventActions (.rxd b) s := by
  cases hws : s.ws with
  | hi => simp [eventActions, hws]
  | data => simp [eventActions, hws]
  | lo =>
    by_cases ha : assembleAddress s.ah b = sentinel
    · simp [eventActions, hws, ha]
    · simpa [eventActions, hws, ha] using Ne.symm ha

/-- No event passes the sentinel to `set_address`. -/
theorem sentinel_not_mem_eventActions (i : Instr) (s : State) : Action.setAddress 0xFFFF#16 ∉ eventActions i s := by
  cases i with
  | rxd b => exact sentinel_not_mem_dataActions b s
  | rxgc b => exact sentinel_not_mem_dataActions b s
  | berr => simpa [eventActions] using setAddress_not_mem_hookActions rfl _
  | unk c => exact setAddress_not_mem_hookActions rfl _
  | stop =>
    by_cases hta : s.ta = sentinel
    · simpa [eventActions, hta] using setAddress_not_mem_hookActions rfl _
    · simp [eventActions, hta]
  | _ => simp [eventActions]

/-- Settles O44: what a step appends to the trace is the actions of the pending event, none of which addresses the sentinel. -/
theorem stepNeverAddressesTheSentinel : Obligations.StepNeverAddressesTheSentinel := by
  intro s t hs h
  unfold SentinelNeverAddressed at hs ⊢
  rcases step_trace h with htrace | htrace
  · rwa [htrace]
  · simp [htrace, hs, sentinel_not_mem_eventActions, setAddress_not_mem_closingActions]

/-! ### Which event writes which register (rules R11 to R13, R21 to R30) -/

/-- Settles O35: the next `WS` of an event is `eventWs`, which agrees with the table row by row; only the rows of the two
data-received events ask what `WS` was. -/
theorem writeStateAdvances : Obligations.WriteStateAdvances := by
  intro i s hi
  refine ⟨_, exec_of_isEvent hi s, ?_⟩
  rw [State.controlWrite_ws, eventEffect_ws]
  cases i with
  | rxd b => cases hws : s.ws <;> simp [eventWs, hws]
  | rxgc b => cases hws : s.ws <;> simp [eventWs, hws]
  | _ => rfl

/-- Only the two ends of a read set `ack_en`. -/
theorem eventReturn_ackEn {i : Instr} (hn : i ≠ .txn) (hl : i ≠ .txl) : (eventReturn i).ackEn = false := by
  cases i with
  | txn => exact absurd rfl hn
  | txl => exact absurd rfl hl
  | _ => rfl

/-- Only AMR and TXA supply a byte. -/
theorem suppliesByte_eq_false {i : Instr} (hr : i ≠ .amr) (hx : i ≠ .txa) : suppliesByte i = false := by
  cases i with
  | amr => exact absurd rfl hr
  | txa => exact absurd rfl hx
  | _ => rfl

/-- `AH` is written in `WS_HI` only (rule R12). -/
theorem eventAh_of_ws_ne_hi {s : State} (h : s.ws ≠ .hi) (i : Instr) : eventAh i s = s.ah := by
  cases hws : s.ws with
  | hi => exact absurd hws h
  | lo => cases i <;> simp [eventAh, hws]
  | data => cases i <;> simp [eventAh, hws]

/-- Outside the two data-received events `AH` and `TA` stay, and `WS` is written by a write address match alone. -/
theorem eventRegisters_of_not_data {i : Instr} (h : ∀ b, i ≠ .rxd b ∧ i ≠ .rxgc b) (s : State) :
    eventAh i s = s.ah ∧ eventTa i s = s.ta ∧ (i ≠ .amw → i ≠ .amgc → eventWs i s = s.ws) := by
  cases i with
  | rxd b => exact absurd rfl (h b).1
  | rxgc b => exact absurd rfl (h b).2
  | amw => exact ⟨rfl, rfl, fun hw _ => absurd rfl hw⟩
  | amgc => exact ⟨rfl, rfl, fun _ hg => absurd rfl hg⟩
  | _ => exact ⟨rfl, rfl, fun _ _ => rfl⟩

/-- In `WS_DATA` no event writes `TA`, and only a write address match leaves the mode (rules R11, R86). -/
theorem eventRegisters_of_ws_data {s : State} (hws : s.ws = .data) (i : Instr) :
    eventTa i s = s.ta ∧ (i ≠ .amw → i ≠ .amgc → eventWs i s = .data) := by
  cases i with
  | amw => exact ⟨rfl, fun hw _ => absurd rfl hw⟩
  | amgc => exact ⟨rfl, fun _ hg => absurd rfl hg⟩
  | _ => simp [eventTa, eventWs, hws]

/-- Under `HOLD` the capture of the high byte leaves `TA` (rule R84, decision D6). -/
theorem eventTa_of_hold {s : State} (hws : s.ws = .hi) (hhold : s.cfg.taOnHiCapture = .hold) (i : Instr) :
    eventTa i s = s.ta := by
  cases i <;> simp [eventTa, hws, hhold, captureTarget]

/-- Settles O36: an event is its effect and one control write, whose fields are known one by one. -/
theorem eventsWriteOnlyTheirRegisters : Obligations.EventsWriteOnlyTheirRegisters := by
  intro i s t hi h
  rw [exec_of_isEvent hi] at h
  cases h
  refine ⟨eventEffect_status i s, eventEffect_sla i s, eventEffect_lines i s, eventEffect_cfg i s, eventEffect_inputs i s,
    by simp, by simp, rfl, by simp, by simp, ?ackEn, ?answer, ?ah, ?notData, ?streaming, ?hold⟩
  case ackEn =>
    intro hn hl
    simp [eventReturn_ackEn hn hl]
  case answer =>
    intro hr hx
    simp [suppliesByte_eq_false hr hx]
  case ah =>
    intro hws
    simpa using eventAh_of_ws_ne_hi hws i
  case notData =>
    intro hdata
    simpa using eventRegisters_of_not_data hdata s
  case streaming =>
    intro hws
    simpa using eventRegisters_of_ws_data hws i
  case hold =>
    intro hws hhold
    simpa using eventTa_of_hold hws hhold i

/-! ### Power-on and the host operations (rules R32, R120, R122, R124, R160) -/

/-- Settles O14: RESET writes the reset parameters and the disabled mode; the default parameters are the power-on values. -/
theorem powerOnStateIsWhatResetLeaves : Obligations.PowerOnStateIsWhatResetLeaves := by
  intro s hcfg
  have hws : s.cfg.wsReset = .hi := by rw [hcfg]; rfl
  have hah : s.cfg.ahReset = 0x00#8 := by rw [hcfg]; rfl
  have hta : s.cfg.taReset = 0x0000#16 := by rw [hcfg]; rfl
  exact ⟨s.construct.disable.forgetBus, rfl, hws, hah, hta, Ctrl.word_disabled, rfl, rfl,
    hws.symm, hah.symm, hta.symm, rfl, rfl, rfl⟩

/-- INITIALIZE from disabled mode is carried out. -/
theorem exec_init_of_disabled {s : State} (h : s.ctrl.moduleEn = false) (a : SlaveAddr) :
    exec (.init a) s = .next (s.construct.enable a) := by
  simp [exec, execInit, h]

/-- Settles O17: `CTRL` and `SLA` are written whole by INITIALIZE and SHUTDOWN, and a raise adds the pending flag. -/
theorem packedRegistersAfterHostOperations : Obligations.PackedRegistersAfterHostOperations := by
  intro s a c d hdis
  refine ⟨_, exec_init_of_disabled hdis a, ?_, ?_, ?_, ?_, ?_, _, rfl, ?_, rfl⟩
  · exact Ctrl.word_initialized
  · exact Ctrl.word_initialized_setPending
  · exact slaveAddress_slaveAddressWord a
  · exact generalCallEnabled_slaveAddressWord a
  · exact slaveAddressWord_toNat a
  · exact Ctrl.word_disabled

/-- Settles O18: the packed word has the four stored fields in its low bits and 0 above. -/
theorem controlWordKeepsStoredFieldsOnly : Obligations.ControlWordKeepsStoredFieldsOnly :=
  ⟨Ctrl.word_ofWord, Ctrl.ofWord_word⟩

/-- Settles O46: at reset the peripheral is disabled, the trace is empty and `WS` is `WS_HI`, whatever the inputs and answers. -/
theorem invariantsHoldAtReset : Obligations.InvariantsHoldAtReset := by
  intro ins ans
  refine ⟨modeConsistent_of_disabled rfl rfl rfl, List.not_mem_nil, rfl, ?_⟩
  intro hws
  cases hws

end Sys2Proof.Machine

/-! SUPPORT. The statements of 20_memory.md: the adapter call of each event, the last address the adapter was given, and what a
step leaves of the records. -/

namespace Sys2Proof.Machine

/-! ### The last address the adapter was given (rule R47) -/

/-- The control write addresses nothing. -/
@[simp] theorem lastSetAddress_append_closingActions (x : List Action) (w : ControlWrite) :
    lastSetAddress (x ++ w.closingActions) = lastSetAddress x := by
  refine lastSetAddress_append_none ?_ x
  rcases closingActions_cases w with e | e <;> rw [e] <;> rfl

/-- A hook is no call of the adapter (rule R147). -/
theorem Action.not_call_of_isHook {a : Action} (ha : a.isHook = true) :
    a.isAdapterCall = false ∧ a.addressOperand = none := by
  cases a with
  | hookBusError => exact ⟨rfl, rfl⟩
  | hookUnrecognized c => exact ⟨rfl, rfl⟩
  | hookExitRequest => exact ⟨rfl, rfl⟩
  | _ => cases ha

theorem addressOperands_hookActions {a : Action} (ha : a.isHook = true) (present : Bool) :
    (hookActions present a).filterMap Action.addressOperand = [] := by
  rcases hookActions_cases present a with e | e
  · rw [e, List.filterMap_cons_none (Action.not_call_of_isHook ha).2, List.filterMap_nil]
  · rw [e, List.filterMap_nil]

/-- Only a data event in `WS_LO` calls `set_address` (rules R45, R85). -/
theorem addressOperands_eventActions_of_ws_ne_lo {s : State} (hws : s.ws ≠ .lo) (i : Instr) :
    (eventActions i s).filterMap Action.addressOperand = [] := by
  have data : ∀ b, (eventActions (.rxd b) s).filterMap Action.addressOperand = [] := by
    intro b
    cases h : s.ws with
    | lo => exact absurd h hws
    | hi => simp [eventActions, h]
    | data => simp [eventActions, h]
  cases i with
  | rxd b => exact data b
  | rxgc b => exact data b
  | berr => exact addressOperands_hookActions rfl s.cfg.hooks
  | unk c => exact addressOperands_hookActions rfl s.cfg.hooks
  | stop =>
    by_cases hta : s.ta = sentinel
    · simpa only [eventActions, if_pos hta] using addressOperands_hookActions rfl s.cfg.hooks
    · simp [eventActions, hta]
  | _ => rfl

/-- An event that leaves the decoder streaming found it streaming, or is the low byte that completes an address. -/
theorem eventWs_eq_data {i : Instr} {s : State} (h : eventWs i s = .data) :
    s.ws = .data ∨ s.ws = .lo ∧ ∃ b, i = .rxd b ∨ i = .rxgc b := by
  cases i with
  | rxd b => cases hws : s.ws <;> simp [eventWs, hws] at h ⊢
  | rxgc b => cases hws : s.ws <;> simp [eventWs, hws] at h ⊢
  | amw => cases h
  | amgc => cases h
  | _ => exact .inl h

/-- The low byte passes the address it assembles, which is the new `TA`, to the adapter, unless it is the sentinel. -/
theorem lastSetAddress_of_lowByte {i : Instr} {b : Byte} {s : State} (hi : i = .rxd b ∨ i = .rxgc b) (hws : s.ws = .lo)
    (hta : eventTa i s ≠ sentinel) : lastSetAddress (s.trace ++ eventActions i s) = some (eventTa i s) := by
  have hTa : eventTa i s = assembleAddress s.ah b := by rcases hi with rfl | rfl <;> simp [eventTa, hws]
  rw [hTa] at hta ⊢
  have hActs : eventActions i s = [.setAddress (assembleAddress s.ah b)] := by
    rcases hi with rfl | rfl <;> simp [eventActions, hws, hta]
  rw [hActs, lastSetAddress_append_setAddress]

/-- An event keeps `TA` the last address: while streaming it changes neither, and the low byte sets both. -/
theorem TargetIsLastAddress.of_event {s : State} (hs : TargetIsLastAddress s) (i : Instr) (w : ControlWrite) :
    TargetIsLastAddress ((eventEffect i s).controlWrite w) := by
  obtain ⟨hcfg, hlast⟩ := hs
  simp only [TargetIsLastAddress, State.controlWrite_cfg, State.controlWrite_ws, State.controlWrite_ta,
    State.controlWrite_trace, lastSetAddress_append_closingActions, eventEffect_cfg, eventEffect_ws, eventEffect_ta,
    eventEffect_trace]
  refine ⟨hcfg, fun hws' hta => ?_⟩
  rcases eventWs_eq_data hws' with hws | ⟨hws, b, hi⟩
  · have hTa : eventTa i s = s.ta := (eventRegisters_of_ws_data hws i).1
    rw [hTa] at hta ⊢
    rw [lastSetAddress_append_none (addressOperands_eventActions_of_ws_ne_lo (by simp [hws]) i)]
    exact hlast hws hta
  · exact lastSetAddress_of_lowByte hi hws hta

/-- A construction of the decoder's registers starts in `WS_HI`, where no address is complete. -/
theorem targetIsLastAddress_of_ws_hi {s : State} (hcfg : s.cfg.wsReset = .hi) (hws : s.ws = .hi) :
    TargetIsLastAddress s :=
  ⟨hcfg, fun h => by simp [hws] at h⟩

/-- RESET and INITIALIZE leave `WS_HI`; SHUTDOWN leaves `WS`, `TA` and the trace (rule R124). -/
theorem TargetIsLastAddress.of_exec_hostOp {i : Instr} {s t : State} (hs : TargetIsLastAddress s) (hi : i.isEvent = false)
    (h : exec i s = .next t) : TargetIsLastAddress t := by
  have hcfg := hs.1
  rcases exec_cases h with ⟨hev, -⟩ | ⟨-, rfl⟩ | ⟨a, -, -, rfl⟩ | ⟨-, rfl⟩
  · simp [hi] at hev
  · exact targetIsLastAddress_of_ws_hi hcfg hcfg
  · exact targetIsLastAddress_of_ws_hi hcfg hcfg
  · exact hs

/-- Settles O45: the handler's event keeps it, a raise and an idle turn touch none of its fields, and a host operation either
leaves them or starts again in `WS_HI`. -/
theorem stepKeepsTargetLastAddress : Obligations.StepKeepsTargetLastAddress := by
  intro s t hs h
  rcases step_cases h with ⟨s₀, -, hs₀, rfl⟩ | ⟨c, d, rest, -, -, -, rfl⟩ | ⟨rest, -, -, rfl⟩ | ⟨w, rest, i, -, -, hi, h⟩
  · obtain ⟨ins, rfl⟩ := exists_inputs_of_handlerStart hs₀
    exact TargetIsLastAddress.of_event (s := { s with inputs := ins }) hs s.pendingEvent _
  · exact hs
  · exact hs
  · exact TargetIsLastAddress.of_exec_hostOp (s := { s with inputs := rest }) hs hi h

/-! ### The adapter call of each event (rules R40, R45, R46) -/

@[simp] theorem adapterCalls_closingActions (w : ControlWrite) : adapterCalls w.closingActions = [] := by
  rcases closingActions_cases w with e | e <;> rw [e] <;> rfl

theorem adapterCalls_hookActions {a : Action} (ha : a.isHook = true) (present : Bool) :
    adapterCalls (hookActions present a) = [] := by
  rcases hookActions_cases present a with e | e
  · rw [e, adapterCalls_cons, (Action.not_call_of_isHook ha).1, if_neg Bool.false_ne_true, adapterCalls_nil]
  · rw [e, adapterCalls_nil]

/-- What the adapter sees of an event is what the event emits before its control write. -/
theorem adapterCalls_event (i : Instr) (s : State) (w : ControlWrite) :
    adapterCalls ((eventEffect i s).controlWrite w).trace = adapterCalls s.trace ++ adapterCalls (eventActions i s) := by
  simp

/-- The data event's call: none, `set_address` of the assembled address, or `set_byte`, as `WS` says. -/
theorem adapterCalls_dataActions (b : Byte) (s : State) :
    adapterCalls (eventActions (.rxd b) s) =
      match s.ws with
      | .hi => []
      | .lo => if targetOf s.ah b = 0xFFFF#16 then [] else [.setAddress (targetOf s.ah b)]
      | .data => [.setByte b] := by
  cases hws : s.ws with
  | hi => simp [eventActions, hws]
  | data => simp [eventActions, hws]
  | lo => by_cases ha : targetOf s.ah b = 0xFFFF#16 <;> simp [eventActions, hws, assembleAddress_eq, ha]

/-- The stop's call: `flush`, unless `TA` is the sentinel. -/
theorem adapterCalls_stopActions (s : State) :
    adapterCalls (eventActions .stop s) = if s.ta = 0xFFFF#16 then [] else [.flush] := by
  by_cases hta : s.ta = 0xFFFF#16
  · simpa only [eventActions, if_pos hta] using adapterCalls_hookActions rfl s.cfg.hooks
  · simp [eventActions, hta]

/-- Settles O34: hooks, DATA writes and the control write are no calls, so the calls of an event are those of its row. -/
theorem adapterCallOfEachEvent : Obligations.AdapterCallOfEachEvent := by
  intro i s hi
  refine ⟨_, exec_of_isEvent hi s, ?_⟩
  rw [adapterCalls_event]
  congr 1
  cases i with
  | rxd b => exact (adapterCalls_dataActions b s).trans (by cases s.ws <;> rfl)
  | rxgc b => exact (adapterCalls_dataActions b s).trans (by cases s.ws <;> rfl)
  | stop => exact adapterCalls_stopActions s
  | berr => exact adapterCalls_hookActions rfl s.cfg.hooks
  | unk c => exact adapterCalls_hookActions rfl s.cfg.hooks
  | _ => rfl

/-! ### What a step leaves of the records and of the configuration (rules R53, R150) -/

/-- A host operation touches nothing that the handler would, and no parameter. -/
theorem accesses_cfg_of_exec_hostOp {i : Instr} {s t : State} (hi : i.isEvent = false) (h : exec i s = .next t) :
    t.accesses = s.accesses ∧ t.cfg = s.cfg := by
  rcases exec_cases h with ⟨hev, -⟩ | ⟨-, rfl⟩ | ⟨a, -, -, rfl⟩ | ⟨-, rfl⟩
  · simp [hi] at hev
  · exact ⟨rfl, rfl⟩
  · exact ⟨rfl, rfl⟩
  · exact ⟨rfl, rfl⟩

/-- What an event touches does not depend on what comes next on the inputs. -/
@[simp] theorem eventAccesses_inputs (i : Instr) (s : State) (ins : List Input) :
    eventAccesses i { s with inputs := ins } = eventAccesses i s := rfl

/-- A step leaves the accesses as they are, or appends those of the pending event and of its return. -/
theorem step_accesses {s t : State} (h : step s = .next t) :
    t.accesses = s.accesses ∨
      t.accesses = s.accesses ++ eventAccesses s.pendingEvent s ++ [.writeControl (eventReturn s.pendingEvent)] := by
  rcases step_cases h with ⟨s₀, -, hs₀, rfl⟩ | ⟨c, d, rest, -, -, -, rfl⟩ | ⟨rest, -, -, rfl⟩ | ⟨w, rest, i, -, -, hi, h⟩
  · obtain ⟨ins, rfl⟩ := exists_inputs_of_handlerStart hs₀
    exact .inr (by simp)
  · exact .inl rfl
  · exact .inl rfl
  · exact .inl (accesses_cfg_of_exec_hostOp hi h).1

/-- No step writes the configuration (rule R150). -/
theorem step_cfg {s t : State} (h : step s = .next t) : t.cfg = s.cfg := by
  rcases step_cases h with ⟨s₀, -, hs₀, rfl⟩ | ⟨c, d, rest, -, -, -, rfl⟩ | ⟨rest, -, -, rfl⟩ | ⟨w, rest, i, -, -, hi, h⟩
  · obtain ⟨ins, rfl⟩ := exists_inputs_of_handlerStart hs₀
    simp
  · rfl
  · rfl
  · exact (accesses_cfg_of_exec_hostOp hi h).2

/-- Settles O47: what a step adds to either record stands at its end. -/
theorem stepOnlyExtendsTheTrace : Obligations.StepOnlyExtendsTheTrace := by
  intro s t h
  refine ⟨?trace, ?accesses, step_cfg h⟩
  case trace => rcases step_trace h with e | e <;> simp [e]
  case accesses => rcases step_accesses h with e | e <;> simp [e]

end Sys2Proof.Machine

/-! SUPPORT. The statements of 30_encoding.md: the two word formats and the code map, the step of a host word and of a placed
word, the operands, and the transactions raised and handled event by event. -/

namespace Sys2Proof.Machine

/-! ### Event words (rules R60, R62, R63) -/

/-- A code the map names a condition for gives the instruction of that condition. -/
theorem decodeEvent_of_condDecode {m : CondMap} {c : Byte} {k : BusCondition} (h : condDecode m c = some k) (d : Byte) :
    decodeEvent m (eventWord c d) = conditionInstr k d := by
  simp [decodeEvent, h]

/-- Every other code gives the unrecognised event, which keeps the code and drops the data byte. -/
theorem decodeEvent_of_unrecognized {m : CondMap} {c : Byte} (h : condDecode m c = none) (d : Byte) :
    decodeEvent m (eventWord c d) = .unk c := by
  simp [decodeEvent, h]

/-- The two fields of an event word are the whole word. -/
theorem eventWord_fields (w : BitVec 16) : eventWord (eventStatus w) (eventData w) = w := by
  apply BitVec.eq_of_toNat_eq
  have hw := w.isLt
  calc (eventWord (eventStatus w) (eventData w)).toNat
      = (eventStatus w).toNat * 256 + (eventData w).toNat := assembleAddress_toNat _ _
    _ = w.toNat := by
      simp only [eventStatus, eventData, BitVec.extractLsb'_toNat, Nat.shiftRight_eq_div_pow]
      omega

theorem eventStatus_ofNat (w : Nat) : eventStatus (BitVec.ofNat 16 w) = BitVec.ofNat 8 (w / 256) := by
  apply BitVec.eq_of_toNat_eq
  simp only [eventStatus, BitVec.extractLsb'_toNat, BitVec.toNat_ofNat, Nat.shiftRight_eq_div_pow]
  omega

theorem eventData_ofNat (w : Nat) : eventData (BitVec.ofNat 16 w) = BitVec.ofNat 8 w := by
  apply BitVec.eq_of_toNat_eq
  simp only [eventData, BitVec.extractLsb'_toNat, BitVec.toNat_ofNat, Nat.shiftRight_eq_div_pow]
  omega

/-! ### Decoding what the encoder wrote (rules R60, R62, R68) -/

/-- The word of a condition that some code reports decodes to the condition's instruction, with the data byte where the
instruction has one. -/
theorem decode_encodeCondition {m : CondMap} {k : BusCondition} (h : m.reports k = true) (data : Byte) :
    decode m (encodeCondition m k data) = .ok (conditionInstr k data) := by
  obtain ⟨c, hc⟩ := Option.isSome_iff_exists.mp h
  simp only [encodeCondition, decode, hc, Option.getD_some, decodeEvent_of_condDecode (condDecode_of_condCode hc)]

/-- A host word decodes by its `op` field, and only INITIALIZE reads `addr7`. -/
theorem decodeHost_append (op : BitVec 2) (a : SlaveAddr) :
    decodeHost (op ++ a) = if op = 0#2 then .ok .reset else if op = 1#2 then .ok (.init a)
      else if op = 2#2 then .ok .shdn else .error .unusedHostOp := by
  simp only [decodeHost, hostOp_append, hostAddr_append]

/-- Settles O29: the ten conditions through the code the encoder picks, the unrecognised event through its own code, the host
operations through their `op` field. -/
theorem decodeOfEncodeIsTheInstruction : Obligations.DecodeOfEncodeIsTheInstruction := by
  intro m i h
  cases i with
  | unk c => exact congrArg Except.ok (decodeEvent_of_unrecognized (Option.isNone_iff_eq_none.mp h) _)
  | reset => exact decodeHost_append 0#2 0#7
  | init a => exact decodeHost_append 1#2 a
  | shdn => exact decodeHost_append 2#2 0#7
  | _ => exact decode_encodeCondition h _

/-! ### Every code map is a configuration (rules R6, R62) -/

/-- The table of a code map over a list of codes: an entry for each code that `f` names a condition for. -/
def tabulate (f : Byte → Option BusCondition) (codes : List Byte) : CondMap :=
  codes.filterMap fun c => (f c).map fun k => (c, k)

/-- The table gives the condition of every code it was made for, and no other. -/
theorem condDecode_tabulate (f : Byte → Option BusCondition) (codes : List Byte) (code : Byte) :
    condDecode (tabulate f codes) code = if code ∈ codes then f code else none := by
  induction codes with
  | nil => rfl
  | cons c rest ih =>
    simp only [tabulate] at ih
    by_cases hc : code = c
    · subst hc
      cases hf : f code with
      | some k => simp [tabulate, hf, condDecode]
      | none => simp [tabulate, hf, ih]
    · cases hf : f c with
      | some k => simp [tabulate, hf, condDecode, hc, ih]
      | none => simp [tabulate, hf, hc, ih]

/-- Every status code. -/
def allCodes : List Byte := (List.finRange 256).map BitVec.ofFin

theorem mem_allCodes (c : Byte) : c ∈ allCodes :=
  List.mem_map.mpr ⟨c.toFin, List.mem_finRange _, rfl⟩

/-- Settles O31: the table of the map over all codes. -/
theorem everyCodeMapIsAConfiguration : Obligations.EveryCodeMapIsAConfiguration := by
  intro f
  exact ⟨tabulate f allCodes, fun code => by rw [condDecode_tabulate, if_pos (mem_allCodes code)]⟩

/-! ### The default map and the words written out (rules R62, R63, R68, decisions D3, D4) -/

/-- Settles O27: the eight words are decoded. -/
theorem writtenOutWordsDecode : Obligations.WrittenOutWordsDecode := by
  unfold Obligations.WrittenOutWordsDecode
  decide

/-- The default map names no condition for a code above 9. -/
theorem condDecode_default_eq_none {c : Byte} (h : 9 < c.toNat) : condDecode condDecodeDefault c = none := by
  have hcodes : ∀ e ∈ condDecodeDefault, e.1.toNat ≤ 9 := by decide
  refine Option.eq_none_iff_forall_ne_some.mpr fun k hk => ?_
  exact absurd (hcodes _ (mem_of_condDecode hk)) (by simpa using h)

/-- The event of a code, given as a number, that the default map names a condition for. -/
theorem decodeEvent_default {c : Byte} {n : Nat} {k : BusCondition} (hc : c.toNat = n)
    (hk : condDecode condDecodeDefault (BitVec.ofNat 8 n) = some k) (d : Byte) :
    decodeEvent condDecodeDefault (c ++ d) = conditionInstr k d := by
  refine decodeEvent_of_condDecode ?_ d
  rw [← hk, ← hc, BitVec.ofNat_toNat, BitVec.setWidth_eq]

/-- Settles O28: the ten numbers one by one, and every code above them. -/
theorem defaultMapNumbersTheConditions : Obligations.DefaultMapNumbersTheConditions := by
  intro c d
  split
  case h_11 =>
    simp only [imp_false] at *
    exact decodeEvent_of_unrecognized (condDecode_default_eq_none (by omega)) d
  all_goals exact decodeEvent_default ‹_› rfl d

/-! ### The step, input by input -/

theorem step_of_inputs_nil {s : State} (h : s.inputs = []) :
    step s = if s.handlerFires then handle s else .refused .runEnded := by
  simp only [step, h]

theorem step_of_condition {s : State} {c d : Byte} {rest : List Input} (h : s.inputs = .condition c d :: rest) :
    step s = if s.handlerFires then handle s else raiseTurn c d { s with inputs := rest } := by
  simp only [step, h]

theorem step_of_handlerTurn {s : State} {rest : List Input} (h : s.inputs = .handlerTurn :: rest) :
    step s = handlerTurn { s with inputs := rest } := by
  simp only [step, h]

theorem step_of_firmware {s : State} {w : BitVec 9} {rest : List Input} (h : s.inputs = .firmware w :: rest) :
    step s = firmwareTurn w { s with inputs := rest } := by
  simp only [step, h]

theorem firmwareTurn_of_ok {w : BitVec 9} {i : Instr} (h : decodeHost w = .ok i) (s : State) :
    firmwareTurn w s = exec i s := by
  simp only [firmwareTurn, h]

theorem firmwareTurn_of_error {w : BitVec 9} (h : decodeHost w = .error .unusedHostOp) (s : State) :
    firmwareTurn w s = .refused .unusedHostOp := by
  simp only [firmwareTurn, h]

/-! ### Host words (rules R68, R178, decision D4) -/

/-- The `op` field is which 128 words the word stands in. -/
theorem hostOp_eq_iff (w : BitVec 9) (op : BitVec 2) : hostOp w = op ↔ w.toNat / 128 = op.toNat := by
  have hw := w.isLt
  rw [← BitVec.toNat_inj]
  simp only [hostOp, BitVec.extractLsb'_toNat, Nat.shiftRight_eq_div_pow]
  omega

theorem hostAddr_eq_ofNat {w : BitVec 9} (h : 128 ≤ w.toNat) : hostAddr w = BitVec.ofNat 7 (w.toNat - 128) := by
  apply BitVec.eq_of_toNat_eq
  simp only [hostAddr, BitVec.extractLsb'_toNat, BitVec.toNat_ofNat, Nat.shiftRight_zero]
  omega

/-- Settles O24: the `op` field of each of the four ranges picks the operation. -/
theorem stepRunsTheHostOperation : Obligations.StepRunsTheHostOperation := by
  intro s w rest hin
  rw [step_of_firmware hin]
  refine ⟨fun hlt => ?reset, fun hge hlt => ?init, fun hge hlt => ?shdn, fun hge => ?unused⟩
  case reset =>
    have hop : hostOp w = 0#2 := (hostOp_eq_iff w _).mpr (show w.toNat / 128 = 0 by omega)
    exact firmwareTurn_of_ok (by rw [decodeHost, hop]; rfl) _
  case init =>
    have hop : hostOp w = 1#2 := (hostOp_eq_iff w _).mpr (show w.toNat / 128 = 1 by omega)
    exact firmwareTurn_of_ok (by rw [decodeHost, hop, hostAddr_eq_ofNat hge]; rfl) _
  case shdn =>
    have hop : hostOp w = 2#2 := (hostOp_eq_iff w _).mpr (show w.toNat / 128 = 2 by omega)
    exact firmwareTurn_of_ok (by rw [decodeHost, hop]; rfl) _
  case unused =>
    have hop : hostOp w = 3#2 := (hostOp_eq_iff w _).mpr (show w.toNat / 128 = 3 by have := w.isLt; omega)
    exact firmwareTurn_of_error (by rw [decodeHost, hop]; rfl) _

/-! ### Placed words (rules R60, R68, R142, logs 13 and 15) -/

/-- An event word raised and pending in an enabled peripheral, under the default map. -/
def placedEvent (e : BitVec 16) (s : State) : State :=
  { s with
    status := eventStatus e
    data := eventData e
    ctrl := { s.ctrl with pending := true, moduleEn := true, intEn := true }
    cfg := { s.cfg with condDecode := condDecodeDefault } }

/-- The handler takes it, and finds the word again in STATUS and DATA. -/
theorem handlerTurn_placedEvent (e : BitVec 16) (s : State) :
    handlerTurn (placedEvent e s) = exec (decodeEvent condDecodeDefault e) (placedEvent e s) :=
  calc handlerTurn (placedEvent e s)
      = exec (decodeEvent condDecodeDefault (eventWord (eventStatus e) (eventData e))) (placedEvent e s) := rfl
    _ = exec (decodeEvent condDecodeDefault e) (placedEvent e s) := by rw [eventWord_fields]

/-- The 9-bit words of the table are the host words. -/
theorem decodeHost_of_decodeTableWord {w : Nat} {i : Instr} (h : decodeTableWord 9 w = some i) :
    decodeHost (BitVec.ofNat 9 w) = .ok i := by
  change (decodeHost (BitVec.ofNat 9 w)).toOption = some i at h
  cases hd : decodeHost (BitVec.ofNat 9 w) with
  | ok j =>
    rw [hd] at h
    exact congrArg Except.ok (Option.some.inj h)
  | error e =>
    rw [hd] at h
    cases h

/-- Settles O25: an event word is found again in STATUS and DATA by the handler's turn, and a host word is the firmware's next
request. -/
theorem placedWordRunsNext : Obligations.PlacedWordRunsNext := by
  intro s w i
  constructor
  case left =>
    intro h
    obtain rfl : decodeEvent condDecodeDefault (BitVec.ofNat 16 w) = i := Option.some.inj h
    calc step (s.withFetchWord 16 w)
        = handlerTurn (placedEvent (BitVec.ofNat 16 w) s) := rfl
      _ = exec (decodeEvent condDecodeDefault (BitVec.ofNat 16 w)) (placedEvent (BitVec.ofNat 16 w) s) :=
        handlerTurn_placedEvent _ s
      _ = _ := by rw [placedEvent, eventStatus_ofNat, eventData_ofNat]
  case right =>
    intro h
    calc step (s.withFetchWord 9 w)
        = firmwareTurn (BitVec.ofNat 9 w) s := rfl
      _ = exec i s := firmwareTurn_of_ok (decodeHost_of_decodeTableWord h) s

/-! ### DATA is read by the data events only (rule R70) -/

/-- Where the first outcome is a next state, so is the second, and the two are equal in every field but DATA. -/
def AgreeButData (o o' : Outcome) : Prop := ∀ t, o = .next t → ∃ u, o' = .next u ∧ t = { u with data := t.data }

theorem AgreeButData.next {t u : State} (h : t = { u with data := t.data }) : AgreeButData (.next t) (.next u) := by
  intro t' ht
  cases ht
  exact ⟨u, rfl, h⟩

theorem AgreeButData.refused (r : Refusal) (o : Outcome) : AgreeButData (.refused r) o := by
  intro t ht
  cases ht

theorem AgreeButData.ite {p : Prop} [Decidable p] {a b a' b' : Outcome} (ha : AgreeButData a a') (hb : AgreeButData b b') :
    AgreeButData (if p then a else b) (if p then a' else b') := by
  split
  · exact ha
  · exact hb

/-- An instruction, once decoded, does not read DATA. -/
theorem exec_agreeButData (i : Instr) (s : State) (d : Byte) : AgreeButData (exec i s) (exec i { s with data := d }) := by
  intro t h
  rcases exec_cases h with ⟨hev, rfl⟩ | ⟨rfl, rfl⟩ | ⟨a, rfl, hen, rfl⟩ | ⟨rfl, rfl⟩
  · refine ⟨_, exec_of_isEvent hev _, ?_⟩
    rw [eventEffect_eq, eventEffect_eq]
    rfl
  · exact ⟨_, rfl, rfl⟩
  · exact ⟨_, exec_init_of_disabled (s := { s with data := d }) hen a, rfl⟩
  · exact ⟨_, rfl, rfl⟩

/-- The data byte is the operand of the two data-received conditions alone. -/
theorem conditionInstr_of_not_data {k : BusCondition} {d : Byte}
    (h : ∀ b, conditionInstr k d ≠ .rxd b ∧ conditionInstr k d ≠ .rxgc b) (d' : Byte) :
    conditionInstr k d' = conditionInstr k d := by
  cases k with
  | dataReceivedAck => exact absurd rfl (h d).1
  | generalCallDataAck => exact absurd rfl (h d).2
  | _ => rfl

theorem pendingEvent_of_not_data {s : State} (h : ∀ b, s.pendingEvent ≠ .rxd b ∧ s.pendingEvent ≠ .rxgc b) (d : Byte) :
    State.pendingEvent { s with data := d } = s.pendingEvent := by
  cases hk : condDecode s.cfg.condDecode s.status with
  | none => exact (decodeEvent_of_unrecognized hk d).trans (decodeEvent_of_unrecognized hk s.data).symm
  | some k =>
    have hevent : s.pendingEvent = conditionInstr k s.data := decodeEvent_of_condDecode hk s.data
    rw [hevent] at h ⊢
    exact (decodeEvent_of_condDecode hk d).trans (conditionInstr_of_not_data h d)

theorem handle_agreeButData {s : State} (h : ∀ b, s.pendingEvent ≠ .rxd b ∧ s.pendingEvent ≠ .rxgc b) (d : Byte) :
    AgreeButData (handle s) (handle { s with data := d }) := by
  rw [handle, handle, pendingEvent_of_not_data h d]
  exact exec_agreeButData _ _ _

theorem firmwareTurn_agreeButData (w : BitVec 9) (s : State) (d : Byte) :
    AgreeButData (firmwareTurn w s) (firmwareTurn w { s with data := d }) := by
  cases hw : decodeHost w with
  | ok i =>
    rw [firmwareTurn_of_ok hw, firmwareTurn_of_ok hw]
    exact exec_agreeButData i s d
  | error e =>
    cases e
    rw [firmwareTurn_of_error hw]
    exact .refused _ _

/-- Settles O37: the turns test `CTRL` and the inputs, a raise overwrites DATA, and the handler's event is the same. -/
theorem dataRegisterIsReadByDataEventsOnly : Obligations.DataRegisterIsReadByDataEventsOnly := by
  intro s t d hevent h
  suffices AgreeButData (step s) (step { s with data := d }) from this t h
  obtain ⟨ins, hin⟩ : ∃ ins, s.inputs = ins := ⟨_, rfl⟩
  cases ins with
  | nil =>
    rw [step_of_inputs_nil hin, step_of_inputs_nil (s := { s with data := d }) hin]
    exact (handle_agreeButData hevent d).ite (.refused _ _)
  | cons input rest =>
    cases input with
    | condition c e =>
      rw [step_of_condition hin, step_of_condition (s := { s with data := d }) hin]
      exact (handle_agreeButData hevent d).ite ((AgreeButData.next rfl).ite ((AgreeButData.refused _ _).ite (.refused _ _)))
    | handlerTurn =>
      rw [step_of_handlerTurn hin, step_of_handlerTurn (s := { s with data := d }) hin]
      exact (handle_agreeButData (s := { s with inputs := rest }) hevent d).ite (.next rfl)
    | firmware w =>
      rw [step_of_firmware hin, step_of_firmware (s := { s with data := d }) hin]
      exact firmwareTurn_agreeButData w { s with inputs := rest } d

/-! ### The operands (rules R64, R67) -/

theorem eventWs_writeMatch {i : Instr} (hi : i = .amw ∨ i = .amgc) (s : State) : eventWs i s = .hi := by
  rcases hi with rfl | rfl <;> rfl

theorem adapterCalls_writeMatch {i : Instr} (hi : i = .amw ∨ i = .amgc) (s : State) :
    adapterCalls (eventActions i s) = [] := by
  rcases hi with rfl | rfl <;> rfl

section DataEvents
variable {i : Instr} {b : Byte} {s : State} (hi : i = .rxd b ∨ i = .rxgc b)
include hi

theorem eventWs_highByte (hws : s.ws = .hi) : eventWs i s = .lo := by
  rcases hi with rfl | rfl <;> simp only [eventWs, hws]

theorem eventAh_highByte (hws : s.ws = .hi) : eventAh i s = b := by
  rcases hi with rfl | rfl <;> simp only [eventAh, hws]

theorem eventWs_lowByte (hws : s.ws = .lo) : eventWs i s = .data := by
  rcases hi with rfl | rfl <;> simp only [eventWs, hws]

theorem eventTa_lowByte (hws : s.ws = .lo) : eventTa i s = targetOf s.ah b := by
  rw [← assembleAddress_eq]
  rcases hi with rfl | rfl <;> simp only [eventTa, hws]

/-- The high byte is kept to itself. -/
theorem adapterCalls_highByte (hws : s.ws = .hi) : adapterCalls (eventActions i s) = [] := by
  rcases hi with rfl | rfl <;> simp only [eventActions, hws, adapterCalls_nil]

/-- The low byte completes the address, which goes to the adapter unless it is the sentinel. -/
theorem adapterCalls_lowByte (hws : s.ws = .lo) : adapterCalls (eventActions i s) =
    if targetOf s.ah b = 0xFFFF#16 then [] else [.setAddress (targetOf s.ah b)] := by
  have hdata := adapterCalls_dataActions b s
  rw [hws] at hdata
  rcases hi with rfl | rfl <;> exact hdata

theorem isEvent_of_data : i.isEvent = true := by
  rcases hi with rfl | rfl <;> rfl

end DataEvents

/-- `t` has the decoder's registers as the event leaves them, and the adapter has seen the event's calls. -/
structure Performs (i : Instr) (s t : State) : Prop where
  ws : t.ws = eventWs i s
  ah : t.ah = eventAh i s
  ta : t.ta = eventTa i s
  calls : adapterCalls t.trace = adapterCalls s.trace ++ adapterCalls (eventActions i s)

theorem performs_event (i : Instr) (s : State) (w : ControlWrite) : Performs i s ((eventEffect i s).controlWrite w) where
  ws := eventEffect_ws i s
  ah := eventEffect_ah i s
  ta := eventEffect_ta i s
  calls := adapterCalls_event i s w

/-- A write address match and two data bytes: the match gives `WS_HI`, the first byte goes to `AH`, the second is assembled
with it, and the address goes to the adapter unless it is the sentinel (rules R64, R67, R84, R85). -/
theorem address_assembled {m h l : Instr} {hi lo : Byte} {s s₁ s₂ s₃ : State} (hm : m = .amw ∨ m = .amgc)
    (hh : h = .rxd hi ∨ h = .rxgc hi) (hl : l = .rxd lo ∨ l = .rxgc lo)
    (h₁ : Performs m s s₁) (h₂ : Performs h s₁ s₂) (h₃ : Performs l s₂ s₃) :
    s₃.ws = .data ∧ s₃.ah = hi ∧ s₃.ta = targetOf hi lo ∧ adapterCalls s₃.trace = adapterCalls s.trace ++
      if targetOf hi lo = 0xFFFF#16 then [] else [.setAddress (targetOf hi lo)] := by
  have hws₁ : s₁.ws = .hi := h₁.ws.trans (eventWs_writeMatch hm s)
  have hws₂ : s₂.ws = .lo := h₂.ws.trans (eventWs_highByte hh hws₁)
  have hah₂ : s₂.ah = hi := h₂.ah.trans (eventAh_highByte hh hws₁)
  have hcalls₁ : adapterCalls s₁.trace = adapterCalls s.trace := by
    rw [h₁.calls, adapterCalls_writeMatch hm, List.append_nil]
  have hcalls₂ : adapterCalls s₂.trace = adapterCalls s₁.trace := by
    rw [h₂.calls, adapterCalls_highByte hh hws₁, List.append_nil]
  refine ⟨h₃.ws.trans (eventWs_lowByte hl hws₂), ?ah, ?ta, ?calls⟩
  case ah => rw [h₃.ah, eventAh_of_ws_ne_hi (by simp [hws₂]), hah₂]
  case ta => rw [h₃.ta, eventTa_lowByte hl hws₂, hah₂]
  case calls => rw [h₃.calls, adapterCalls_lowByte hl hws₂, hah₂, hcalls₂, hcalls₁]

/-- One event at the head of a sequence. -/
theorem execAll_cons_of_isEvent {i : Instr} (hi : i.isEvent = true) (is : List Instr) (s : State) :
    execAll (i :: is) s = execAll is ((eventEffect i s).controlWrite (eventReturn i)) := by
  simp only [execAll, exec_of_isEvent hi]

/-- Settles O6: the three events perform the assembly of the address. -/
theorem twoAddressBytesAssembleBigEndian : Obligations.TwoAddressBytesAssembleBigEndian := by
  intro s hi lo m h l hm hh hl
  have hmatch : m.isEvent = true := by rcases hm with rfl | rfl <;> rfl
  obtain ⟨hws, hah, hta, -⟩ := address_assembled hm hh hl (performs_event m s (eventReturn m))
    (performs_event h _ (eventReturn h)) (performs_event l _ (eventReturn l))
  rw [execAll_cons_of_isEvent hmatch, execAll_cons_of_isEvent (isEvent_of_data hh),
    execAll_cons_of_isEvent (isEvent_of_data hl), execAll]
  exact ⟨_, rfl, hta, by rw [hta, targetOf_toNat], hah, hws⟩

/-! ### A condition raised and handled (rules R141 to R145) -/

/-- The event that the decoder sees in a condition (status code, data byte). -/
def State.reported (s : State) (e : Byte × Byte) : Instr := decodeEvent s.cfg.condDecode (eventWord e.1 e.2)

/-- The condition is raised, and its event performed. -/
def State.handled (s : State) (e : Byte × Byte) : State :=
  (eventEffect (s.reported e) (s.raise e.1 e.2)).controlWrite (eventReturn (s.reported e))

section Handled
variable (s : State) (e : Byte × Byte)

@[simp] theorem State.handled_ws : (s.handled e).ws = eventWs (s.reported e) s := eventEffect_ws ..
@[simp] theorem State.handled_ah : (s.handled e).ah = eventAh (s.reported e) s := eventEffect_ah ..
@[simp] theorem State.handled_ta : (s.handled e).ta = eventTa (s.reported e) s := eventEffect_ta ..
@[simp] theorem State.handled_status : (s.handled e).status = e.1 := eventEffect_status ..
@[simp] theorem State.handled_data :
    (s.handled e).data = if suppliesByte (s.reported e) then s.nextAnswer else e.2 := eventEffect_data ..
@[simp] theorem State.handled_cfg : (s.handled e).cfg = s.cfg := eventEffect_cfg ..
@[simp] theorem State.handled_answers :
    (s.handled e).answers = if suppliesByte (s.reported e) then s.answers.tail else s.answers := eventEffect_answers ..
@[simp] theorem State.handled_draws :
    (s.handled e).draws = if suppliesByte (s.reported e) then s.draws + 1 else s.draws := eventEffect_draws ..
@[simp] theorem State.handled_trace : (s.handled e).trace =
    s.trace ++ eventActions (s.reported e) s ++ (eventReturn (s.reported e)).closingActions :=
  congrArg (· ++ _) (eventEffect_trace ..)

/-- The pending flag is set by the raise and cleared by the return. -/
@[simp] theorem State.handled_ctrl : (s.handled e).ctrl = s.ctrl.written (eventReturn (s.reported e)) := by
  rw [State.handled, State.controlWrite_ctrl, eventEffect_ctrl]
  rfl

@[simp] theorem State.reported_handled (e' : Byte × Byte) : (s.handled e).reported e' = s.reported e' := by
  simp [State.reported]

theorem State.handled_performs : Performs (s.reported e) s (s.handled e) where
  ws := s.handled_ws e
  ah := s.handled_ah e
  ta := s.handled_ta e
  calls := adapterCalls_event (s.reported e) (s.raise e.1 e.2) _

/-- What comes next on the inputs is no part of it. -/
theorem State.handled_inputs (ins : List Input) :
    State.handled { s with inputs := ins } e = { s.handled e with inputs := ins } := by
  unfold State.handled
  rw [eventEffect_eq, eventEffect_eq]
  rfl

theorem State.foldl_handled_inputs (es : List (Byte × Byte)) (s : State) (ins : List Input) :
    es.foldl State.handled { s with inputs := ins } = { es.foldl State.handled s with inputs := ins } := by
  induction es generalizing s with
  | nil => rfl
  | cons e es ih => rw [List.foldl_cons, List.foldl_cons, State.handled_inputs, ih]

end Handled

/-- Raising a condition and handling it takes two steps. -/
theorem run_condition_handlerTurn {s : State} {e : Byte × Byte} {rest : List Input} (hs : s.ready)
    (hin : s.inputs = .condition e.1 e.2 :: .handlerTurn :: rest) (k : Nat) :
    Host.Core.run Sys2Proof.core (k + 2) s = Host.Core.run Sys2Proof.core k { s.handled e with inputs := rest } := by
  obtain ⟨hen, hint, hpend⟩ := hs
  have hquiet : s.handlerFires = false := by simp [State.handlerFires, Ctrl.fires, hpend]
  have hraise : step s = .next (State.raise e.1 e.2 { s with inputs := .handlerTurn :: rest }) := by
    rw [step_of_condition hin, hquiet, if_neg Bool.false_ne_true]
    exact if_pos ((Ctrl.mayRaise_iff _).mpr ⟨hen, hpend⟩)
  have hfires : State.handlerFires (State.raise e.1 e.2 { s with inputs := rest }) = true :=
    (Ctrl.fires_iff _).mpr ⟨rfl, hint, hen⟩
  have hhandle : step (State.raise e.1 e.2 { s with inputs := .handlerTurn :: rest }) =
      .next (State.handled { s with inputs := rest } e) :=
    (if_pos hfires).trans (exec_of_isEvent (isEvent_decodeEvent _ _) _)
  rw [run_succ hraise, run_succ hhandle, State.handled_inputs]

theorem State.ready.handled {s : State} (hs : s.ready) (e : Byte × Byte) : (s.handled e).ready := by
  obtain ⟨hen, hint, -⟩ := hs
  exact ⟨by simp [hen], by simp [hint], by simp⟩

/-- Running the inputs by which conditions are raised and handled performs their events one after the other. -/
theorem run_eventInputs {s : State} {es : List (Byte × Byte)} {rest : List Input} {k : Nat} (hs : s.ready)
    (hin : s.inputs = eventInputs es ++ rest) (hk : k = 2 * es.length) :
    Host.Core.run Sys2Proof.core k s = .next { es.foldl State.handled s with inputs := rest } := by
  subst hk
  induction es generalizing s with
  | nil =>
    obtain rfl : s.inputs = rest := hin
    rfl
  | cons e es ih =>
    calc Host.Core.run Sys2Proof.core (2 * (e :: es).length) s
        = Host.Core.run Sys2Proof.core (2 * es.length) { s.handled e with inputs := eventInputs es ++ rest } :=
          run_condition_handlerTurn hs hin _
      _ = .next { (e :: es).foldl State.handled s with inputs := rest } := by
          rw [ih (s := { s.handled e with inputs := eventInputs es ++ rest }) (hs.handled e) rfl,
            State.foldl_handled_inputs, List.foldl_cons]

/-! ### What conditions report -/

theorem State.reported_of_condDecode {s : State} {c : Byte} {k : BusCondition} (h : condDecode s.cfg.condDecode c = some k)
    (d : Byte) : s.reported (c, d) = conditionInstr k d :=
  decodeEvent_of_condDecode h d

theorem State.reported_of_isWriteMatchCode {s : State} {c : Byte} (h : isWriteMatchCode s.cfg.condDecode c) (d : Byte) :
    s.reported (c, d) = .amw ∨ s.reported (c, d) = .amgc :=
  h.imp (State.reported_of_condDecode · d) (State.reported_of_condDecode · d)

theorem State.reported_of_isDataCode {s : State} {c : Byte} (h : isDataCode s.cfg.condDecode c) (d : Byte) :
    s.reported (c, d) = .rxd d ∨ s.reported (c, d) = .rxgc d :=
  h.imp (State.reported_of_condDecode · d) (State.reported_of_condDecode · d)

theorem State.reported_of_isReadEndCode {s : State} {c : Byte} (h : isReadEndCode s.cfg.condDecode c) (d : Byte) :
    s.reported (c, d) = .txn ∨ s.reported (c, d) = .txl :=
  h.imp (State.reported_of_condDecode · d) (State.reported_of_condDecode · d)

/-! ### A read transaction (rules R100 to R103) -/

/-- From `s` to `t` exactly these answers were fetched, each placed on the bus at once. -/
structure SuppliesBytes (bytes : List Byte) (s t : State) : Prop where
  answers : s.answers = bytes ++ t.answers
  draws : t.draws = s.draws + bytes.length
  ws : t.ws = s.ws
  ah : t.ah = s.ah
  ta : t.ta = s.ta
  ctrl : t.ctrl = s.ctrl
  cfg : t.cfg = s.cfg
  trace : t.trace = s.trace ++ bytes.flatMap fun b => [.getByte b, .dataWrite b, .clearPending]

theorem SuppliesBytes.nil (s : State) : SuppliesBytes [] s s := by
  constructor <;> simp

theorem SuppliesBytes.cons {v : Byte} {bytes : List Byte} {s t u : State} (h : SuppliesBytes [v] s t)
    (h' : SuppliesBytes bytes t u) : SuppliesBytes (v :: bytes) s u where
  answers := by rw [h.answers, h'.answers]; rfl
  draws := by rw [h'.draws, h.draws, List.length_singleton, List.length_cons]; omega
  ws := h'.ws.trans h.ws
  ah := h'.ah.trans h.ah
  ta := h'.ta.trans h.ta
  ctrl := h'.ctrl.trans h.ctrl
  cfg := h'.cfg.trans h.cfg
  trace := by rw [h'.trace, h.trace]; simp

theorem eq_of_suppliesByte {i : Instr} (h : suppliesByte i = true) : i = .amr ∨ i = .txa := by
  by_contra hne
  rw [not_or] at hne
  simp [suppliesByte_eq_false hne.1 hne.2] at h

/-- A return that does not set `ack_en` leaves `CTRL` as it was before the raise. -/
theorem Ctrl.written_clearOnly {c : Ctrl} (h : c.pending = false) : c.written .clearOnly = c := by
  cases c
  cases h
  rfl

theorem Ctrl.written_withAckEn {c : Ctrl} (h : c.pending = false) : c.written .withAckEn = { c with ackEn := true } := by
  cases c
  cases h
  rfl

/-- A read event fetches one byte. -/
theorem suppliesBytes_handled {s : State} {e : Byte × Byte} {v : Byte} {rest : List Byte} (hs : s.ctrl.pending = false)
    (he : suppliesByte (s.reported e) = true) (hans : s.answers = v :: rest) : SuppliesBytes [v] s (s.handled e) := by
  have hv : s.nextAnswer = v := State.nextAnswer_cons hans
  rcases eq_of_suppliesByte he with hr | hr <;> constructor <;>
    simp [hr, hans, hv, suppliesByte, eventWs, eventAh, eventTa, eventActions, eventReturn, Ctrl.written_clearOnly hs]

/-- A sequence of read events fetches one byte for each. -/
theorem suppliesBytes_foldl_handled {s : State} {es : List (Byte × Byte)} {bytes left : List Byte}
    (hs : s.ctrl.pending = false) (hes : ∀ e ∈ es, suppliesByte (s.reported e) = true) (hlen : es.length = bytes.length)
    (hans : s.answers = bytes ++ left) : SuppliesBytes bytes s (es.foldl State.handled s) := by
  induction es generalizing s bytes with
  | nil =>
    obtain rfl := List.eq_nil_of_length_eq_zero hlen.symm
    exact .nil s
  | cons e es ih =>
    obtain ⟨v, bytes, rfl⟩ := List.exists_cons_of_length_eq_add_one hlen.symm
    have he := suppliesBytes_handled hs (hes e (by simp)) hans
    refine he.cons (ih (by simp) (fun e' he' => ?_) (by simpa using hlen) ?_)
    · simpa using hes e' (by simp [he'])
    · simpa [hes e (by simp)] using congrArg List.tail hans

/-- The end of a read re-arms acknowledgment, and the byte of its raise stays in DATA (decision D20, log 23). -/
theorem handled_readEnd {s : State} {e : Byte × Byte} (he : s.reported e = .txn ∨ s.reported e = .txl) :
    s.handled e = { s with
      status := e.1
      data := e.2
      ctrl := s.ctrl.written .withAckEn
      trace := s.trace ++ [.ackEnSet, .clearPending]
      accesses := s.accesses ++ [.readStatus, .writeControl .withAckEn] } := by
  rw [State.handled]
  rcases he with hr | hr <;> rw [hr] <;> apply State.ext <;> simp [eventEffect, eventReturn] <;> rfl

theorem SuppliesBytes.reported {bytes : List Byte} {s t : State} (h : SuppliesBytes bytes s t) (e : Byte × Byte) :
    t.reported e = s.reported e := by
  rw [State.reported, h.cfg, State.reported]

/-- The read transaction: the match and each acknowledged byte fetch one answer, and the end re-arms acknowledgment. -/
theorem readTransaction_suppliesBytes {s : State} {es : List (Byte × Byte)} {e : Byte × Byte} {bytes left : List Byte}
    (hs : s.ctrl.pending = false) (hes : ∀ e ∈ es, suppliesByte (s.reported e) = true) (hlen : es.length = bytes.length)
    (hans : s.answers = bytes ++ left) (he : s.reported e = .txn ∨ s.reported e = .txl) :
    ∃ u, SuppliesBytes bytes s u ∧ u.answers = left ∧ (es ++ [e]).foldl State.handled s = { u with
      status := e.1
      data := e.2
      ctrl := { s.ctrl with ackEn := true }
      trace := u.trace ++ [.ackEnSet, .clearPending]
      accesses := u.accesses ++ [.readStatus, .writeControl .withAckEn] } := by
  have hu := suppliesBytes_foldl_handled hs hes hlen hans
  refine ⟨_, hu, List.append_cancel_left (hu.answers.symm.trans hans), ?_⟩
  rw [← hu.reported] at he
  rw [List.foldl_append, List.foldl_cons, List.foldl_nil, handled_readEnd he, hu.ctrl,
    Ctrl.written_withAckEn hs]

/-- The read match and the acknowledged bytes all supply a byte. -/
theorem suppliesByte_readEvents {s : State} {cMatch cMore dMatch : Byte}
    (hmatch : condDecode s.cfg.condDecode cMatch = some .addressMatchRead)
    (hmore : condDecode s.cfg.condDecode cMore = some .dataTransmittedAck) (more : List (Byte × Byte)) :
    ∀ e ∈ (cMatch, dMatch) :: more.map (fun e => (cMore, e.1)), suppliesByte (s.reported e) = true := by
  intro e he
  rcases List.mem_cons.mp he with rfl | he
  · rw [State.reported_of_condDecode hmatch]
    rfl
  · obtain ⟨e', -, rfl⟩ := List.mem_map.mp he
    rw [State.reported_of_condDecode hmore]
    rfl

/-- Settles O41: the inputs perform the events of the transaction one after the other. -/
theorem readTransactionCalls : Obligations.ReadTransactionCalls := by
  intro s cMatch cMore cEnd dMatch dEnd v more left rest hs hmatch hmore hend hin hans
  obtain ⟨-, -, hpend⟩ := id hs
  obtain ⟨u, hu, hleft, hfold⟩ := readTransaction_suppliesBytes (bytes := v :: more.map (fun e => e.2)) hpend
    (suppliesByte_readEvents hmatch hmore more) (by simp) hans (State.reported_of_isReadEndCode hend dEnd)
  have hrun := run_eventInputs (k := 2 * (more.length + 2)) hs hin (by simp)
  rw [← List.cons_append, hfold] at hrun
  refine ⟨_, hrun, rfl, hleft, ?_, hu.ws, hu.ah, hu.ta, rfl, ?_⟩
  · simpa [Nat.add_assoc] using hu.draws
  · rw [← hu.trace]

/-! ### A seek and a read (rules R69, R177) -/

/-- From `s` to `t` no byte was fetched and none placed on the bus. -/
structure FetchesNothing (s t : State) : Prop where
  answers : t.answers = s.answers
  ctrl : t.ctrl = s.ctrl
  cfg : t.cfg = s.cfg
  placed : t.trace.filterMap Action.placedByte = s.trace.filterMap Action.placedByte

theorem FetchesNothing.trans {s t u : State} (h : FetchesNothing s t) (h' : FetchesNothing t u) : FetchesNothing s u where
  answers := h'.answers.trans h.answers
  ctrl := h'.ctrl.trans h.ctrl
  cfg := h'.cfg.trans h.cfg
  placed := h'.placed.trans h.placed

/-- The events of the write path. -/
def isWriteEvent : Instr → Bool
  | .amw | .amgc | .rxd _ | .rxgc _ | .stop => true
  | .berr | .amr | .txa | .txn | .txl | .unk _ | .reset | .init _ | .shdn => false

theorem isWriteEvent_of_writeMatch {i : Instr} (hi : i = .amw ∨ i = .amgc) : isWriteEvent i = true := by
  rcases hi with rfl | rfl <;> rfl

theorem isWriteEvent_of_data {i : Instr} {b : Byte} (hi : i = .rxd b ∨ i = .rxgc b) : isWriteEvent i = true := by
  rcases hi with rfl | rfl <;> rfl

/-- What an event of the write path emits places no byte on the bus. -/
theorem placedBytes_writeEvent {i : Instr} (hi : isWriteEvent i = true) (s : State) :
    (eventActions i s).filterMap Action.placedByte = [] := by
  have data : ∀ b, (eventActions (.rxd b) s).filterMap Action.placedByte = [] := by
    intro b
    cases hws : s.ws with
    | hi => simp [eventActions, hws]
    | lo => by_cases ha : assembleAddress s.ah b = sentinel <;> simp [eventActions, hws, ha]
    | data => simp [eventActions, hws]
  cases i with
  | amw => rfl
  | amgc => rfl
  | rxd b => exact data b
  | rxgc b => exact data b
  | stop =>
    by_cases hta : s.ta = sentinel
    · cases hhooks : s.cfg.hooks <;> simp [eventActions, hta, hhooks]
    · simp [eventActions, hta]
  | _ => cases hi

theorem suppliesByte_eq_false_of_writeEvent {i : Instr} (hi : isWriteEvent i = true) : suppliesByte i = false := by
  cases i with
  | amr => cases hi
  | txa => cases hi
  | _ => rfl

theorem eventReturn_of_writeEvent {i : Instr} (hi : isWriteEvent i = true) : eventReturn i = .clearOnly := by
  cases i with
  | berr => cases hi
  | txn => cases hi
  | txl => cases hi
  | _ => rfl

theorem fetchesNothing_handled {s : State} {e : Byte × Byte} (hs : s.ctrl.pending = false)
    (he : isWriteEvent (s.reported e) = true) : FetchesNothing s (s.handled e) where
  answers := by simp [suppliesByte_eq_false_of_writeEvent he]
  ctrl := by rw [State.handled_ctrl, eventReturn_of_writeEvent he, Ctrl.written_clearOnly hs]
  cfg := s.handled_cfg e
  placed := by simp [placedBytes_writeEvent he, eventReturn_of_writeEvent he]

/-- A sequence of write-path conditions fetches nothing. -/
theorem fetchesNothing_foldl_handled {s : State} {es : List (Byte × Byte)} (hs : s.ctrl.pending = false)
    (hes : ∀ e ∈ es, isWriteEvent (s.reported e) = true) : FetchesNothing s (es.foldl State.handled s) := by
  induction es generalizing s with
  | nil => exact ⟨rfl, rfl, rfl, rfl⟩
  | cons e es ih =>
    have he := fetchesNothing_handled hs (hes e (by simp))
    refine he.trans (ih (by simp) fun e' he' => ?_)
    simpa using hes e' (by simp [he'])

theorem FetchesNothing.reported {s t : State} (h : FetchesNothing s t) (e : Byte × Byte) :
    t.reported e = s.reported e := by
  rw [State.reported, h.cfg, State.reported]

/-- The seek: the address is assembled and given to the adapter, and the stop flushes although nothing was written. -/
theorem seek_assembles_and_flushes {s : State} {eMatch eHigh eLow eStop : Byte × Byte} {hi lo : Byte}
    (hm : s.reported eMatch = .amw ∨ s.reported eMatch = .amgc)
    (hh : s.reported eHigh = .rxd hi ∨ s.reported eHigh = .rxgc hi)
    (hl : s.reported eLow = .rxd lo ∨ s.reported eLow = .rxgc lo)
    (hstop : s.reported eStop = .stop) (ha : targetOf hi lo ≠ 0xFFFF#16) {t : State}
    (ht : t = [eMatch, eHigh, eLow, eStop].foldl State.handled s) :
    t.ws = .data ∧ t.ah = hi ∧ t.ta = targetOf hi lo ∧
      adapterCalls t.trace = adapterCalls s.trace ++ [.setAddress (targetOf hi lo), .flush] := by
  set s₁ := s.handled eMatch with hs₁
  set s₂ := s₁.handled eHigh with hs₂
  set s₃ := s₂.handled eLow with hs₃
  obtain ⟨hws, hah, hta, hcalls⟩ := address_assembled (s₁ := s₁) (s₂ := s₂) (s₃ := s₃) hm hh hl (s.handled_performs eMatch)
    (by simpa [hs₁] using s₁.handled_performs eHigh) (by simpa [hs₂, hs₁] using s₂.handled_performs eLow)
  have hlast : s₃.reported eStop = .stop := by simpa [hs₁, hs₂, hs₃] using hstop
  have hperf : Performs .stop s₃ t := by
    rw [ht, ← hlast]
    exact s₃.handled_performs eStop
  refine ⟨hperf.ws.trans hws, hperf.ah.trans hah, hperf.ta.trans hta, ?_⟩
  rw [hperf.calls, adapterCalls_stopActions, hta, hcalls, if_neg ha, if_neg ha, List.append_assoc]
  rfl

/-- The calls of a read are its fetches. -/
theorem adapterCalls_readActions (bytes : List Byte) :
    adapterCalls (bytes.flatMap fun b => [.getByte b, .dataWrite b, .clearPending]) = bytes.map .getByte := by
  induction bytes with
  | nil => rfl
  | cons b bytes ih => simp [ih]

/-- The bytes placed on the bus by a read are those fetched. -/
theorem placedBytes_readActions (bytes : List Byte) :
    (bytes.flatMap fun b => [.getByte b, .dataWrite b, .clearPending]).filterMap Action.placedByte = bytes := by
  induction bytes with
  | nil => rfl
  | cons b bytes ih => exact congrArg (b :: ·) ih

/-- Settles O42: the seek, then the read transaction from the state it leaves. -/
theorem seekThenReadCalls : Obligations.SeekThenReadCalls := by
  intro s cWrite cHigh cLow cStop cRead cMore cEnd dWrite hi lo dStop dRead dEnd v more left rest hs hwrite hhigh hlow hstop
    hread hmore hend hin hans ha
  obtain ⟨-, -, hpend⟩ := id hs
  have hm := State.reported_of_isWriteMatchCode hwrite dWrite
  have hh := State.reported_of_isDataCode hhigh hi
  have hl := State.reported_of_isDataCode hlow lo
  have hst : s.reported (cStop, dStop) = .stop := State.reported_of_condDecode hstop dStop
  obtain ⟨u, hu⟩ : ∃ u, u = [(cWrite, dWrite), (cHigh, hi), (cLow, lo), (cStop, dStop)].foldl State.handled s := ⟨_, rfl⟩
  obtain ⟨hws, hah, hta, hcalls⟩ := seek_assembles_and_flushes hm hh hl hst ha hu
  have hquiet : FetchesNothing s u := by
    rw [hu]
    refine fetchesNothing_foldl_handled hpend ?_
    simp only [List.forall_mem_cons]
    exact ⟨isWriteEvent_of_writeMatch hm, isWriteEvent_of_data hh, isWriteEvent_of_data hl, by rw [hst]; rfl, by simp⟩
  rw [← hquiet.cfg] at hread hmore hend
  rw [← hquiet.answers] at hans
  rw [← hquiet.ctrl] at hpend
  obtain ⟨w, hw, hleft, hfold⟩ := readTransaction_suppliesBytes (bytes := v :: more.map (fun e => e.2)) hpend
    (suppliesByte_readEvents (dMatch := dRead) hread hmore more) (by simp) hans (State.reported_of_isReadEndCode hend dEnd)
  have hrun := run_eventInputs (k := 2 * (more.length + 6)) hs hin (by simp)
  simp only [List.foldl_cons, List.foldl_nil] at hu hrun
  rw [← hu, ← List.foldl_cons, ← List.cons_append, hfold] at hrun
  refine ⟨_, hrun, rfl, hleft, hw.ws.trans hws, hw.ah.trans hah, hw.ta.trans hta, rfl, rfl, ?ctrl, ?calls, ?placed⟩
  case ctrl => rw [hquiet.ctrl]
  case calls =>
    simp only [hw.trace, adapterCalls_append, adapterCalls_readActions, hcalls]
    simp
  case placed =>
    simp only [hw.trace, List.filterMap_append, placedBytes_readActions, hquiet.placed]
    simp

end Sys2Proof.Machine

/-! SUPPORT. The statements of 40_write_events.md: the next state of each write-path event, general call as directed, and the
write transaction raised and handled event by event. -/

namespace Sys2Proof.Machine

/-! ### General call as directed (rule R82) -/

/-- An event and its directed twin are the same operation. -/
theorem exec_directed (i : Instr) (s : State) : exec (directed i) s = exec i s := by
  cases i with
  | amgc => rfl
  | rxgc b => rfl
  | _ => rfl

/-- Settles O7: the two sequences agree instruction by instruction, in every state. -/
theorem generalCallIsTreatedAsDirected : Obligations.GeneralCallIsTreatedAsDirected := by
  intro is
  induction is with
  | nil => exact fun _ => rfl
  | cons i is ih =>
    intro s
    simp only [List.map_cons, execAll, exec_directed, ih]

/-! ### What a data event emits, touches and writes, by the value of `WS` (rules R84 to R86) -/

section DataEvents
variable {i : Instr} {b : Byte} {s : State} (hi : i = .rxd b ∨ i = .rxgc b)
include hi

theorem eventTa_highByte (hws : s.ws = .hi) : eventTa i s = captureTarget s.cfg.taOnHiCapture b s.ta := by
  rcases hi with rfl | rfl <;> simp only [eventTa, hws]

theorem eventActions_highByte (hws : s.ws = .hi) : eventActions i s = [] := by
  rcases hi with rfl | rfl <;> simp only [eventActions, hws]

theorem eventAccesses_highByte (hws : s.ws = .hi) : eventAccesses i s = [.readStatus, .readData, .writeRegisters] := by
  rcases hi with rfl | rfl <;> simp only [eventAccesses, hws]

theorem eventActions_lowByte (hws : s.ws = .lo) : eventActions i s =
    if targetOf s.ah b = 0xFFFF#16 then [] else [.setAddress (targetOf s.ah b)] := by
  rcases hi with rfl | rfl <;> simp only [eventActions, hws, assembleAddress_eq]

theorem eventAccesses_lowByte (hws : s.ws = .lo) : eventAccesses i s =
    if targetOf s.ah b = 0xFFFF#16 then [.readStatus, .readData, .writeRegisters]
    else [.readStatus, .readData, .writeRegisters, .adapterCall (.setAddress (targetOf s.ah b))] := by
  rcases hi with rfl | rfl <;> simp only [eventAccesses, hws, assembleAddress_eq]

theorem eventWs_streamedByte (hws : s.ws = .data) : eventWs i s = .data := by
  rcases hi with rfl | rfl <;> simp only [eventWs, hws]

theorem eventActions_streamedByte (hws : s.ws = .data) : eventActions i s = [.setByte b] := by
  rcases hi with rfl | rfl <;> simp only [eventActions, hws]

theorem eventAccesses_streamedByte (hws : s.ws = .data) :
    eventAccesses i s = [.readStatus, .readData, .adapterCall (.setByte b)] := by
  rcases hi with rfl | rfl <;> simp only [eventAccesses, hws]

end DataEvents

/-! ### The next state of each write-path event -/

theorem isEvent_of_writeEvent {i : Instr} (hi : isWriteEvent i = true) : i.isEvent = true := by
  cases i with
  | reset => cases hi
  | init a => cases hi
  | shdn => cases hi
  | _ => rfl

/-- An event of the write path writes `WS`, `AH`, `TA` as its rule says, clears the pending flag last, and leaves the rest. -/
theorem exec_writeEvent {i : Instr} (hi : isWriteEvent i = true) (s : State) :
    exec i s = .next { s with
      ws := eventWs i s
      ah := eventAh i s
      ta := eventTa i s
      ctrl := { s.ctrl with pending := false }
      trace := s.trace ++ (eventActions i s ++ [.clearPending])
      accesses := s.accesses ++ (eventAccesses i s ++ [.writeControl .clearOnly]) } := by
  rw [exec_of_isEvent (isEvent_of_writeEvent hi), eventReturn_of_writeEvent hi]
  congr 1
  apply State.ext <;> simp [suppliesByte_eq_false_of_writeEvent hi, Ctrl.written]

/-- Settles O1: the match writes `WS` alone, and emits nothing before the return. -/
theorem writeMatchRestartsTheAddress : Obligations.WriteMatchRestartsTheAddress := by
  intro s i hi
  rw [exec_writeEvent (isWriteEvent_of_writeMatch hi)]
  rcases hi with rfl | rfl <;> rfl

/-- `TA` after the capture of the high byte, in the masks and shifts of rule R84. -/
theorem captureTarget_eq (mode : HiCapture) (b : Byte) (ta : Addr) : captureTarget mode b ta =
    match mode with
    | .hold => ta
    | .zextLow => b.zeroExtend 16
    | .highHalf => (ta &&& 0x00FF#16) ||| (b.zeroExtend 16 <<< 8) := by
  cases mode with
  | hold => rfl
  | zextLow => rfl
  | highHalf => exact captureTarget_highHalf b ta

/-- Settles O2: the byte goes to `AH`, and to `TA` as the setting says. -/
theorem highByteIsCaptured : Obligations.HighByteIsCaptured := by
  intro s b i hi hws
  rw [exec_writeEvent (isWriteEvent_of_data hi), eventWs_highByte hi hws, eventAh_highByte hi hws, eventTa_highByte hi hws,
    eventActions_highByte hi hws, eventAccesses_highByte hi hws, captureTarget_eq]
  rfl

/-- Settles O3: the address is the sentinel exactly when both of its bytes are 0xFF. -/
theorem lowByteAssemblesTheAddress : Obligations.LowByteAssemblesTheAddress := by
  intro s b i hi hws
  rw [exec_writeEvent (isWriteEvent_of_data hi), eventWs_lowByte hi hws, eventAh_of_ws_ne_hi (by simp [hws]),
    eventTa_lowByte hi hws, eventActions_lowByte hi hws, eventAccesses_lowByte hi hws]
  simp only [← targetOf_eq_sentinel_iff]
  by_cases ha : targetOf s.ah b = 0xFFFF#16
  · simp only [if_pos ha]
    rfl
  · simp only [if_neg ha]
    rfl

/-- Settles O4: the registers stay, and the byte is the operand of one call. -/
theorem streamedByteGoesToSetByte : Obligations.StreamedByteGoesToSetByte := by
  intro s b i hi hws
  rw [exec_writeEvent (isWriteEvent_of_data hi), eventWs_streamedByte hi hws, eventAh_of_ws_ne_hi (by simp [hws]),
    (eventRegisters_of_ws_data hws i).1, eventActions_streamedByte hi hws, eventAccesses_streamedByte hi hws, ← hws]
  rfl

/-- Settles O5: a stop writes no register, and what it emits is decided by `TA` and, for the exit signal, by the hooks. -/
theorem stopFlushesOrSignalsExit : Obligations.StopFlushesOrSignalsExit := by
  intro s
  rw [exec_writeEvent rfl]
  refine ⟨fun hta => ?flush, fun hta => ?exit⟩
  case flush => simp [eventWs, eventAh, eventTa, eventActions, eventAccesses, hta]
  case exit => cases hhooks : s.cfg.hooks <;> simp [eventWs, eventAh, eventTa, eventActions, eventAccesses, hta, hhooks]

/-! ### A write transaction (rules R48, R82, R90) -/

/-- Three conditions raised and handled, a write address match and two data bytes, assemble the address. -/
theorem handled_address_assembled {s : State} {eMatch eHigh eLow : Byte × Byte} {hi lo : Byte}
    (hm : s.reported eMatch = .amw ∨ s.reported eMatch = .amgc)
    (hh : s.reported eHigh = .rxd hi ∨ s.reported eHigh = .rxgc hi)
    (hl : s.reported eLow = .rxd lo ∨ s.reported eLow = .rxgc lo) {t : State}
    (ht : t = [eMatch, eHigh, eLow].foldl State.handled s) :
    t.ws = .data ∧ t.ah = hi ∧ t.ta = targetOf hi lo ∧ adapterCalls t.trace = adapterCalls s.trace ++
      if targetOf hi lo = 0xFFFF#16 then [] else [.setAddress (targetOf hi lo)] := by
  have hhigh := (s.handled eMatch).handled_performs eHigh
  have hlow := ((s.handled eMatch).handled eHigh).handled_performs eLow
  rw [State.reported_handled] at hhigh hlow
  rw [State.reported_handled] at hlow
  rw [ht]
  exact address_assembled hm hh hl (s.handled_performs eMatch) hhigh hlow

/-- From `s` to `t` exactly these bytes were given to `set_byte`, and the decoder stays streaming to the same address. -/
structure StreamsBytes (bytes : List Byte) (s t : State) : Prop where
  ws : t.ws = .data
  ah : t.ah = s.ah
  ta : t.ta = s.ta
  calls : adapterCalls t.trace = adapterCalls s.trace ++ bytes.map .setByte

/-- A data event while streaming. -/
theorem streamsBytes_handled {s : State} {e : Byte × Byte} {b : Byte} (hws : s.ws = .data)
    (he : s.reported e = .rxd b ∨ s.reported e = .rxgc b) : StreamsBytes [b] s (s.handled e) where
  ws := by rw [State.handled_ws, eventWs_streamedByte he hws]
  ah := by rw [State.handled_ah, eventAh_of_ws_ne_hi (by simp [hws])]
  ta := by rw [State.handled_ta, (eventRegisters_of_ws_data hws _).1]
  calls := by
    rw [(s.handled_performs e).calls, eventActions_streamedByte he hws]
    rfl

theorem StreamsBytes.cons {b : Byte} {bytes : List Byte} {s t u : State} (h : StreamsBytes [b] s t)
    (h' : StreamsBytes bytes t u) : StreamsBytes (b :: bytes) s u where
  ws := h'.ws
  ah := h'.ah.trans h.ah
  ta := h'.ta.trans h.ta
  calls := by rw [h'.calls, h.calls, List.append_assoc]; rfl

/-- A sequence of data events while streaming gives their bytes to `set_byte`, in order. -/
theorem streamsBytes_foldl_handled {s : State} {es : List (Byte × Byte)} (hws : s.ws = .data)
    (hes : ∀ e ∈ es, s.reported e = .rxd e.2 ∨ s.reported e = .rxgc e.2) :
    StreamsBytes (es.map Prod.snd) s (es.foldl State.handled s) := by
  induction es generalizing s with
  | nil => exact ⟨hws, rfl, rfl, (List.append_nil _).symm⟩
  | cons e es ih =>
    have he := streamsBytes_handled hws (hes e List.mem_cons_self)
    refine he.cons (ih he.ws fun e' he' => ?_)
    rw [State.reported_handled]
    exact hes e' (List.mem_cons_of_mem e he')

/-- A stop handled leaves the decoder's registers, and flushes unless `TA` is the sentinel. -/
theorem handled_stop {s : State} {e : Byte × Byte} (he : s.reported e = .stop) :
    (s.handled e).ws = s.ws ∧ (s.handled e).ah = s.ah ∧ (s.handled e).ta = s.ta ∧
      adapterCalls (s.handled e).trace = adapterCalls s.trace ++ if s.ta = 0xFFFF#16 then [] else [.flush] := by
  have h := s.handled_performs e
  rw [he] at h
  exact ⟨h.ws, h.ah, h.ta, by rw [h.calls, adapterCalls_stopActions]⟩

/-- Conditions handled leave what a code stands for. -/
theorem State.reported_foldl_handled (es : List (Byte × Byte)) (s : State) (e : Byte × Byte) :
    (es.foldl State.handled s).reported e = s.reported e := by
  induction es generalizing s with
  | nil => rfl
  | cons e' es ih => rw [List.foldl_cons, ih, State.reported_handled]

/-- The conditions of a write transaction, performed: the address is assembled, the body streamed to `set_byte`, and the stop
flushes unless the address is the sentinel. -/
theorem writeTransaction_handled {s t : State} {eMatch eHigh eLow eStop : Byte × Byte} {hi lo : Byte}
    {body : List (Byte × Byte)} (hm : s.reported eMatch = .amw ∨ s.reported eMatch = .amgc)
    (hh : s.reported eHigh = .rxd hi ∨ s.reported eHigh = .rxgc hi)
    (hl : s.reported eLow = .rxd lo ∨ s.reported eLow = .rxgc lo)
    (hbody : ∀ e ∈ body, s.reported e = .rxd e.2 ∨ s.reported e = .rxgc e.2) (hstop : s.reported eStop = .stop)
    (ht : t = (eMatch :: eHigh :: eLow :: (body ++ [eStop])).foldl State.handled s) :
    t.ws = .data ∧ t.ah = hi ∧ t.ta = targetOf hi lo ∧
      adapterCalls t.trace = adapterCalls s.trace ++
        if targetOf hi lo = 0xFFFF#16 then body.map (fun e => .setByte e.2)
        else .setAddress (targetOf hi lo) :: (body.map (fun e => .setByte e.2) ++ [.flush]) := by
  obtain ⟨u, hu⟩ : ∃ u, u = [eMatch, eHigh, eLow].foldl State.handled s := ⟨_, rfl⟩
  obtain ⟨v, hv⟩ : ∃ v, v = body.foldl State.handled u := ⟨_, rfl⟩
  have htv : t = v.handled eStop := by
    simp only [ht, hv, hu, List.foldl_cons, List.foldl_append, List.foldl_nil]
  have hreported (e : Byte × Byte) : u.reported e = s.reported e := by rw [hu, State.reported_foldl_handled]
  obtain ⟨hws, hah, hta, hcalls⟩ := handled_address_assembled hm hh hl hu
  have hstream : StreamsBytes (body.map Prod.snd) u v := by
    rw [hv]
    exact streamsBytes_foldl_handled hws fun e he => by simpa only [hreported] using hbody e he
  obtain ⟨hws', hah', hta', hcalls'⟩ := handled_stop (s := v) (e := eStop) (by
    rw [hv, State.reported_foldl_handled, hreported, hstop])
  rw [← htv] at hws' hah' hta' hcalls'
  refine ⟨hws'.trans hstream.ws, ?ah, ?ta, ?calls⟩
  case ah => rw [hah', hstream.ah, hah]
  case ta => rw [hta', hstream.ta, hta]
  case calls =>
    rw [hcalls', hstream.ta, hta, hstream.calls, hcalls]
    by_cases ha : targetOf hi lo = 0xFFFF#16 <;> simp [ha]

/-- Settles O40: the inputs perform the conditions of the transaction, all of them write-path events, which leave `CTRL`. -/
theorem writeTransactionCalls : Obligations.WriteTransactionCalls := by
  intro s cMatch cHigh cLow cStop dMatch hi lo dStop body rest hs hmatch hhigh hlow hbody hstop hin
  obtain ⟨-, -, hpend⟩ := id hs
  have hm := State.reported_of_isWriteMatchCode hmatch dMatch
  have hh := State.reported_of_isDataCode hhigh hi
  have hl := State.reported_of_isDataCode hlow lo
  have hb : ∀ e ∈ body, s.reported e = .rxd e.2 ∨ s.reported e = .rxgc e.2 := fun e he =>
    State.reported_of_isDataCode (hbody e he) e.2
  have hst : s.reported (cStop, dStop) = .stop := State.reported_of_condDecode hstop dStop
  have hwrite : ∀ e ∈ (cMatch, dMatch) :: (cHigh, hi) :: (cLow, lo) :: (body ++ [(cStop, dStop)]),
      isWriteEvent (s.reported e) = true := by
    simp only [List.forall_mem_cons, List.forall_mem_append]
    exact ⟨isWriteEvent_of_writeMatch hm, isWriteEvent_of_data hh, isWriteEvent_of_data hl,
      fun e he => isWriteEvent_of_data (hb e he), by rw [hst]; rfl, nofun⟩
  obtain ⟨hws, hah, hta, hcalls⟩ := writeTransaction_handled hm hh hl hb hst rfl
  exact ⟨_, run_eventInputs hs hin (by simp), rfl, hws, hah, hta, (fetchesNothing_foldl_handled hpend hwrite).ctrl, hcalls⟩

end Sys2Proof.Machine

/-! SUPPORT. The statements of 41_read_events.md: the two events that supply a byte, and the two that end a read. -/

namespace Sys2Proof.Machine

/-- A control write that only clears leaves `ack_en` and the two enables. -/
theorem Ctrl.written_clearOnly_eq (c : Ctrl) : c.written .clearOnly = { c with pending := false } := rfl

/-- The control write that re-arms acknowledgment leaves the two enables. -/
theorem Ctrl.written_withAckEn_eq (c : Ctrl) : c.written .withAckEn = { c with pending := false, ackEn := true } := rfl

/-! ### The bytes of a read (rules R100, R101, R57) -/

/-- AMR and TXA are one operation: a byte is supplied, and the return only clears the pending flag. -/
theorem exec_readByte {i : Instr} (hi : i = .amr ∨ i = .txa) (s : State) :
    exec i s = .next (s.enter.supplyByte.controlWrite .clearOnly) := by
  rcases hi with rfl | rfl <;> rfl

/-- Settles O8: the answer of the one call is the byte written to DATA, and it is the environment's next one where it lists
one. -/
theorem readEventSuppliesOneByte : Obligations.ReadEventSuppliesOneByte := by
  intro s i hi
  refine ⟨?next, fun v rest => State.nextAnswer_cons⟩
  rw [exec_readByte hi, State.supplyByte_eq]
  congr 1
  apply State.ext <;> simp [Ctrl.written_clearOnly_eq]

/-! ### The end of a read (rules R102, R103) -/

/-- TXN and TXL are one operation: nothing before the return, which sets `ack_en`. -/
theorem exec_readEnd {i : Instr} (hi : i = .txn ∨ i = .txl) (s : State) :
    exec i s = .next (s.enter.controlWrite .withAckEn) := by
  rcases hi with rfl | rfl <;> rfl

/-- Settles O9: the entry only reads STATUS, and the one control write sets `ack_en` and clears `pending`. -/
theorem endOfReadRearmsAcknowledgment : Obligations.EndOfReadRearmsAcknowledgment := by
  intro s i hi
  rw [exec_readEnd hi]
  congr 1
  apply State.ext <;> simp [Ctrl.written_withAckEn_eq]

end Sys2Proof.Machine

/-! SUPPORT. The statements of 42_error_events.md: the bus error and the unrecognized condition. -/

namespace Sys2Proof.Machine

/-- The control write with the stop strobe stores no more than one that only clears: the strobe is not a field. -/
theorem Ctrl.written_withStop_eq (c : Ctrl) : c.written .withStop = { c with pending := false } := rfl

/-- A bus error or an unrecognized condition writes the pending flag alone; what it emits and touches is in the two records. -/
theorem exec_errorEvent {i : Instr} (hi : i = .berr ∨ ∃ c, i = .unk c) (s : State) :
    exec i s = .next { s with
      ctrl := { s.ctrl with pending := false }
      trace := s.trace ++ (eventActions i s ++ [.clearPending])
      accesses := s.accesses ++ (eventAccesses i s ++ [.writeControl (eventReturn i)]) } := by
  have hevent : i.isEvent = true := by rcases hi with rfl | ⟨c, rfl⟩ <;> rfl
  rw [exec_of_isEvent hevent, eventEffect_eq]
  congr 1
  rcases hi with rfl | ⟨c, rfl⟩
  · apply State.ext <;> simp [eventWs, eventAh, eventTa, suppliesByte, eventReturn, Ctrl.written_withStop_eq]
  · apply State.ext <;> simp [eventWs, eventAh, eventTa, suppliesByte, eventReturn, Ctrl.written_clearOnly_eq]

/-- Settles O10: the strobe and the hook are all a bus error emits before the return, and the hook stands in both records
exactly when the configuration has the hooks. -/
theorem busErrorOnlyStrobes : Obligations.BusErrorOnlyStrobes := by
  intro s
  rw [exec_errorEvent (.inl rfl)]
  cases hhooks : s.cfg.hooks <;> simp [eventActions, eventAccesses, eventReturn, hhooks]

/-- Settles O11: the hook with the code is all an unrecognized condition emits before the return, and it stands in both
records exactly when the configuration has the hooks. -/
theorem unrecognizedChangesNothing : Obligations.UnrecognizedChangesNothing := by
  intro s c
  rw [exec_errorEvent (.inr ⟨c, rfl⟩)]
  cases hhooks : s.cfg.hooks <;> simp [eventActions, eventAccesses, eventReturn, hhooks]

end Sys2Proof.Machine

/-! SUPPORT. The statements of 43_host_operations.md: the next state of each host operation, and what follows when one comes
after another or after a raise. -/

namespace Sys2Proof.Machine

/-! ### The next state of each host operation (rules R120 to R122, R124) -/

theorem exec_reset (s : State) : exec .reset s = .next s.construct.disable.forgetBus := rfl

theorem exec_shdn (s : State) : exec .shdn s = .next s.disable := rfl

/-- A second INITIALIZE is not carried out. -/
theorem exec_init_of_enabled {s : State} (h : s.ctrl.moduleEn = true) (a : SlaveAddr) :
    exec (.init a) s = .refused .initializeWhileEnabled :=
  if_pos h

/-- Settles O13: RESET constructs the decoder's registers and disables the peripheral; STATUS and DATA are the two free values
it draws. -/
theorem resetConstructsAndDisables : Obligations.ResetConstructsAndDisables := by
  intro s
  exact ⟨Config.unspecifiedStatus s.draws, Config.unspecifiedData s.draws, exec_reset s⟩

/-- Settles O15: INITIALIZE tests `module_en` alone. -/
theorem initializeEnablesFromDisabledMode : Obligations.InitializeEnablesFromDisabledMode :=
  fun _ a => ⟨fun hdis => exec_init_of_disabled hdis a, fun hen => exec_init_of_enabled hen a⟩

/-- Settles O16: SHUTDOWN is the disabled mode and nothing else. -/
theorem shutdownDisables : Obligations.ShutdownDisables :=
  exec_shdn

/-! ### SHUTDOWN and INITIALIZE against a fresh INITIALIZE (rule R123) -/

/-- INITIALIZE after an instruction that leaves the peripheral disabled is carried out. -/
theorem execAll_init_of_exec_disabled {i : Instr} {s t : State} (h : exec i s = .next t) (hdis : t.ctrl.moduleEn = false)
    (a : SlaveAddr) : execAll [i, .init a] s = .next (t.construct.enable a) := by
  simp only [execAll, h, exec_init_of_disabled hdis]

/-- Settles O19: INITIALIZE writes every register the two preceding operations leave different, but STATUS and DATA. -/
theorem shutdownInitializeEqualsFreshInitialize : Obligations.ShutdownInitializeEqualsFreshInitialize := by
  intro s a
  refine ⟨_, _, execAll_init_of_exec_disabled (exec_shdn s) rfl a, execAll_init_of_exec_disabled (exec_reset s) rfl a,
    ?_, rfl, rfl⟩
  apply State.ext <;> simp

/-! ### SHUTDOWN while a condition is pending (rules R124, R141, R178) -/

/-- With the peripheral enabled and nothing pending, a condition on the inputs is raised. -/
theorem step_condition_raises {s : State} {c d : Byte} {rest : List Input} (hin : s.inputs = .condition c d :: rest)
    (hen : s.ctrl.moduleEn = true) (hpend : s.ctrl.pending = false) :
    step s = .next (State.raise c d { s with inputs := rest }) := by
  have hquiet : s.handlerFires = false := by simp [State.handlerFires, Ctrl.fires, hpend]
  rw [step_of_condition hin, hquiet, if_neg Bool.false_ne_true]
  exact if_pos ((Ctrl.mayRaise_iff _).mpr ⟨hen, hpend⟩)

/-- The host word 0x100 on the inputs is SHUTDOWN, whether a condition is pending or not. -/
theorem step_firmware_shdn {s : State} {rest : List Input} (hin : s.inputs = .firmware 0x100#9 :: rest) :
    step s = .next (State.disable { s with inputs := rest }) := by
  obtain ⟨-, -, hshdn, -⟩ := stepRunsTheHostOperation s 0x100#9 rest hin
  rw [hshdn (by decide) (by decide), exec_shdn]

/-- Settles O26: the raise comes first, and SHUTDOWN then clears what it set before the handler has its turn. -/
theorem shutdownDropsThePendingCondition : Obligations.ShutdownDropsThePendingCondition := by
  intro s c d rest hen hpend hin
  rw [run_succ (step_condition_raises hin hen hpend), run_succ (step_firmware_shdn rfl)]
  rfl

end Sys2Proof.Machine

/-! SUPPORT. The statements of 60_exceptions.md: who moves next, what every event does with the pending flag, the order of the
accesses inside a step, and the hooks as observations. -/

namespace Sys2Proof.Machine

/-! ### Who moves next (rules R141, R142, R148, R161, R163) -/

theorem State.handlerFires_iff (s : State) :
    s.handlerFires = true ↔ s.ctrl.pending = true ∧ s.ctrl.intEn = true ∧ s.ctrl.moduleEn = true :=
  s.ctrl.fires_iff

/-- Without all three flags the handler does not fire. -/
theorem State.handlerFires_eq_false {s : State}
    (h : ¬(s.ctrl.pending = true ∧ s.ctrl.intEn = true ∧ s.ctrl.moduleEn = true)) : s.handlerFires = false :=
  Bool.eq_false_iff.mpr (mt s.handlerFires_iff.mp h)

/-- A condition that reaches the peripheral's turn is raised, or refused by the name of what stands in its way. -/
theorem step_of_condition_quiet {s : State} {c d : Byte} {rest : List Input} (hin : s.inputs = .condition c d :: rest)
    (hquiet : s.handlerFires = false) : step s = raiseTurn c d { s with inputs := rest } := by
  rw [step_of_condition hin, hquiet, if_neg Bool.false_ne_true]

/-- Settles O21: enabled and idle, the condition is raised; otherwise the handler does not fire either, and the raise is refused
by the flag that forbids it. -/
theorem peripheralRaisesOneCondition : Obligations.PeripheralRaisesOneCondition := by
  intro s c d rest hin
  refine ⟨fun hen hpend => step_condition_raises hin hen hpend, fun hdis => ?disabled, fun hen hpend hint => ?stalled⟩
  case disabled =>
    rw [step_of_condition_quiet hin (State.handlerFires_eq_false (by simp [hdis]))]
    simp [raiseTurn, Ctrl.mayRaise, hdis]
  case stalled =>
    rw [step_of_condition_quiet hin (State.handlerFires_eq_false (by simp [hint]))]
    simp [raiseTurn, Ctrl.mayRaise, hen, hpend]

/-- Settles O22: where the handler fires, all three shapes of the inputs lead to `handle`. -/
theorem stepRunsTheDecodedEvent : Obligations.StepRunsTheDecodedEvent := by
  intro s hpend hint hen
  have hfires : s.handlerFires = true := s.handlerFires_iff.mpr ⟨hpend, hint, hen⟩
  refine ⟨fun hin => ?_, fun c d rest hin => ?_, fun rest hin => ?_⟩
  · rw [step_of_inputs_nil hin, if_pos hfires]
    rfl
  · rw [step_of_condition hin, if_pos hfires]
    rfl
  · rw [step_of_handlerTurn hin]
    exact if_pos hfires

/-- Settles O23: where the handler does not fire, its turn is idle, and without inputs the run has ended. -/
theorem nothingFiresNothingRuns : Obligations.NothingFiresNothingRuns := by
  intro s h
  have hquiet : ¬s.handlerFires = true := mt s.handlerFires_iff.mp h
  refine ⟨fun hin => ?_, fun rest hin => ?_⟩
  · rw [step_of_inputs_nil hin, if_neg hquiet]
  · rw [step_of_handlerTurn hin]
    exact if_neg hquiet

/-! ### What an event emits before its return (rules R45, R57, R110, R111) -/

/-- The five shapes of what an event emits before its return. -/
inductive EventEmits : List Action → Prop where
  | nothing : EventEmits []
  | call {a : Action} (ha : a.isAdapterCall = true) : EventEmits [a]
  | suppliedByte (v : Byte) : EventEmits [.getByte v, .dataWrite v]
  | hook (present : Bool) {a : Action} (ha : a.isHook = true) : EventEmits (hookActions present a)
  | strobeAndHook (present : Bool) {a : Action} (ha : a.isHook = true) : EventEmits (.stop :: hookActions present a)

theorem eventEmits_dataActions (b : Byte) (s : State) : EventEmits (eventActions (.rxd b) s) := by
  cases hws : s.ws with
  | hi => simpa only [eventActions, hws] using .nothing
  | data => simpa only [eventActions, hws] using .call rfl
  | lo =>
    by_cases ha : assembleAddress s.ah b = sentinel
    · simpa only [eventActions, hws, if_pos ha] using .nothing
    · simpa only [eventActions, hws, if_neg ha] using .call rfl

theorem eventEmits_stopActions (s : State) : EventEmits (eventActions .stop s) := by
  by_cases hta : s.ta = sentinel
  · simpa only [eventActions, if_pos hta] using .hook s.cfg.hooks rfl
  · simpa only [eventActions, if_neg hta] using .call rfl

/-- What an event emits has one of these shapes. -/
theorem eventEmits_eventActions (i : Instr) (s : State) : EventEmits (eventActions i s) := by
  cases i with
  | rxd b => exact eventEmits_dataActions b s
  | rxgc b => exact eventEmits_dataActions b s
  | stop => exact eventEmits_stopActions s
  | amr => exact .suppliedByte s.nextAnswer
  | txa => exact .suppliedByte s.nextAnswer
  | unk c => exact .hook s.cfg.hooks rfl
  | berr => exact .strobeAndHook s.cfg.hooks rfl
  | _ => exact .nothing

/-! ### The pending flag (rule R145) -/

/-- A hook does not clear the pending flag. -/
theorem clearPending_not_mem_hookActions {a : Action} (ha : a.isHook = true) (present : Bool) :
    Action.clearPending ∉ hookActions present a := by
  rcases hookActions_cases present a with e | e
  · rw [e, List.mem_singleton]
    rintro rfl
    cases ha
  · simp [e]

/-- Nothing before the return clears the pending flag. -/
theorem EventEmits.clearPending_not_mem {acts : List Action} (h : EventEmits acts) : Action.clearPending ∉ acts := by
  cases h with
  | nothing => exact List.not_mem_nil
  | call ha =>
    rw [List.mem_singleton]
    rintro rfl
    cases ha
  | suppliedByte v => simp
  | hook present ha => exact clearPending_not_mem_hookActions ha present
  | strobeAndHook present ha => simpa using clearPending_not_mem_hookActions ha present

/-- The return clears the pending flag once, as its last action. -/
theorem exists_closingActions_eq_append (w : ControlWrite) :
    ∃ acts, w.closingActions = acts ++ [.clearPending] ∧ Action.clearPending ∉ acts := by
  rcases closingActions_cases w with e | e
  · exact ⟨[], e, by simp⟩
  · exact ⟨[.ackEnSet], e, by simp⟩

/-- Settles O33: the return is what clears the pending flag, nothing before it does, and in an enabled peripheral with nothing
pending the next condition is raised. -/
theorem everyEventClearsPendingOnceAndLast : Obligations.EveryEventClearsPendingOnceAndLast := by
  intro i s hi
  obtain ⟨closing, hclosing, hnot⟩ := exists_closingActions_eq_append (eventReturn i)
  refine ⟨_, eventActions i s ++ closing, exec_of_isEvent hi s, rfl, ?trace, ?once, fun hen c d rest => ?raise⟩
  case trace => simp [hclosing]
  case once => simp [hnot, (eventEmits_eventActions i s).clearPending_not_mem]
  case raise => exact ⟨_, step_condition_raises rfl (by simpa using hen) rfl, rfl, rfl⟩

/-! ### The order of the accesses (rule R144, decision D17) -/

/-- The accesses stand in strictly rising order of their numbers. -/
abbrev InOrder (accs : List Access) : Prop := accs.Pairwise (fun x y => x.phase < y.phase)

/-- The access by which an action is performed before the control write; none, for an effect of that write. -/
def Action.access : Action → Option Access
  | .setAddress a => some (.adapterCall (.setAddress a))
  | .setByte v => some (.adapterCall (.setByte v))
  | .getByte v => some (.adapterCall (.getByte v))
  | .flush => some (.adapterCall .flush)
  | .dataWrite v => some (.writeData v)
  | .hookBusError => some (.signalHook .hookBusError)
  | .hookUnrecognized c => some (.signalHook (.hookUnrecognized c))
  | .hookExitRequest => some (.signalHook .hookExitRequest)
  | .ackEnSet | .stop | .clearPending => none

/-- The access shows the action it performs. -/
theorem Action.access_bind_shown (a : Action) :
    a.access.bind Access.shown = Option.guard (fun a => !a.isControl) a := by
  cases a <;> rfl

/-- Actions performed by accesses have the numbers (4) to (6). -/
theorem Action.phase_of_access {a : Action} {x : Access} (h : a.access = some x) : 3 < x.phase ∧ x.phase < 7 := by
  cases a <;> cases h <;> simp

theorem Action.access_of_isAdapterCall {a : Action} (ha : a.isAdapterCall = true) : a.access = some (.adapterCall a) := by
  cases a with
  | setAddress a => rfl
  | setByte v => rfl
  | getByte v => rfl
  | flush => rfl
  | _ => cases ha

theorem Action.access_of_isHook {a : Action} (ha : a.isHook = true) : a.access = some (.signalHook a) := by
  cases a with
  | hookBusError => rfl
  | hookUnrecognized c => rfl
  | hookExitRequest => rfl
  | _ => cases ha

/-- The accesses that perform these actions before the control write, (4) to (6). -/
def performed (acts : List Action) : List Access := acts.filterMap Action.access

/-- What the performing accesses show is the actions, but for the effects of the control write. -/
theorem filterMap_shown_performed (acts : List Action) :
    (performed acts).filterMap Access.shown = acts.filter (fun a => !a.isControl) := by
  rw [performed, List.filterMap_filterMap, funext Action.access_bind_shown, List.filterMap_eq_filter]

theorem phase_of_mem_performed {acts : List Action} {x : Access} (hx : x ∈ performed acts) : 3 < x.phase ∧ x.phase < 7 := by
  obtain ⟨a, -, ha⟩ := List.mem_filterMap.mp hx
  exact Action.phase_of_access ha

@[simp] theorem readData_not_mem_performed (acts : List Action) : Access.readData ∉ performed acts :=
  fun hx => absurd (phase_of_mem_performed hx).1 (by decide)
@[simp] theorem writeRegisters_not_mem_performed (acts : List Action) : Access.writeRegisters ∉ performed acts :=
  fun hx => absurd (phase_of_mem_performed hx).1 (by decide)

/-- A signalled hook is performed by its signal. -/
theorem performed_hookActions {a : Action} (ha : a.isHook = true) (present : Bool) :
    performed (hookActions present a) = (hookActions present a).map .signalHook := by
  cases present with
  | false => rfl
  | true => simp [performed, Action.access_of_isHook ha]

theorem inOrder_performed_hookActions {a : Action} (ha : a.isHook = true) (present : Bool) :
    InOrder (performed (hookActions present a)) := by
  rw [performed_hookActions ha]
  cases present <;> simp

/-- The actions of an event are performed in the order of their numbers. -/
theorem EventEmits.inOrder_performed {acts : List Action} (h : EventEmits acts) :
    InOrder (performed acts) := by
  cases h with
  | nothing => exact .nil
  | call ha => simp [performed, Action.access_of_isAdapterCall ha]
  | suppliedByte v => simp [performed, Action.access]
  | hook present ha => exact inOrder_performed_hookActions ha present
  | strobeAndHook present ha => exact inOrder_performed_hookActions ha present

/-- The read of DATA (2), by the two data-received conditions. -/
def dataReads : Instr → List Access
  | .rxd _ | .rxgc _ => [.readData]
  | .berr | .amw | .amgc | .stop | .amr | .txa | .txn | .txl | .unk _ | .reset | .init _ | .shdn => []

/-- The write of the registers (3), by a write address match and by a data event outside `WS_DATA`. -/
def registerWrites (i : Instr) (s : State) : List Access :=
  match i with
  | .amw | .amgc => [.writeRegisters]
  | .rxd _ | .rxgc _ => if s.ws = .data then [] else [.writeRegisters]
  | .berr | .stop | .amr | .txa | .txn | .txl | .unk _ | .reset | .init _ | .shdn => []

theorem mem_dataReads {i : Instr} {x : Access} : x ∈ dataReads i ↔ x = .readData ∧ ∃ b, i = .rxd b ∨ i = .rxgc b := by
  cases i <;> simp [dataReads]

theorem mem_registerWrites {i : Instr} {s : State} {x : Access} : x ∈ registerWrites i s ↔
    x = .writeRegisters ∧ (i = .amw ∨ i = .amgc ∨ s.ws ≠ .data ∧ ∃ b, i = .rxd b ∨ i = .rxgc b) := by
  by_cases hws : s.ws = .data <;> cases i <;> simp [registerWrites, hws]

theorem inOrder_dataReads (i : Instr) : InOrder (dataReads i) := by
  cases i <;> simp [dataReads]

theorem inOrder_registerWrites (i : Instr) (s : State) : InOrder (registerWrites i s) := by
  by_cases hws : s.ws = .data <;> cases i <;> simp [registerWrites, hws]

theorem eventAccesses_dataEvent (b : Byte) (s : State) : eventAccesses (.rxd b) s =
    .readStatus :: (dataReads (.rxd b) ++ (registerWrites (.rxd b) s ++ performed (eventActions (.rxd b) s))) := by
  cases hws : s.ws with
  | hi => simp [eventAccesses, dataReads, registerWrites, performed, eventActions, hws]
  | data => simp [eventAccesses, dataReads, registerWrites, performed, eventActions, Action.access, hws]
  | lo =>
    by_cases ha : assembleAddress s.ah b = sentinel <;>
      simp [eventAccesses, dataReads, registerWrites, performed, eventActions, Action.access, hws, ha]

theorem eventAccesses_stop (s : State) :
    eventAccesses .stop s = .readStatus :: performed (eventActions .stop s) := by
  by_cases hta : s.ta = sentinel
  · simp only [eventAccesses, eventActions, if_pos hta, performed_hookActions (a := .hookExitRequest) rfl]
  · simp [eventAccesses, eventActions, performed, Action.access, hta]

/-- The accesses of an event before its control write: (1), then (2) and (3) where the event has them, then those that perform
its actions. -/
theorem eventAccesses_eq {i : Instr} (hi : i.isEvent = true) (s : State) : eventAccesses i s =
    .readStatus :: (dataReads i ++ (registerWrites i s ++ performed (eventActions i s))) := by
  cases i with
  | rxd b => exact eventAccesses_dataEvent b s
  | rxgc b => exact eventAccesses_dataEvent b s
  | stop => exact eventAccesses_stop s
  | berr => exact congrArg _ (performed_hookActions rfl s.cfg.hooks).symm
  | unk c => exact congrArg _ (performed_hookActions rfl s.cfg.hooks).symm
  | reset => cases hi
  | init a => cases hi
  | shdn => cases hi
  | _ => rfl

/-- The accesses of an event stand in the order of their numbers, the control write last. -/
theorem inOrder_eventAccesses {i : Instr} (hi : i.isEvent = true) (s : State) (w : ControlWrite) :
    InOrder (eventAccesses i s ++ [.writeControl w]) := by
  have afterRegisters : ∀ y ∈ performed (eventActions i s) ++ [.writeControl w], 3 < y.phase := by
    simpa [or_imp, forall_and] using fun y hy => (phase_of_mem_performed hy).1
  have afterData : ∀ y ∈ registerWrites i s ++ (performed (eventActions i s) ++ [.writeControl w]), 2 < y.phase := by
    intro y hy
    rcases List.mem_append.mp hy with hy | hy
    · simp [(mem_registerWrites.mp hy).1]
    · exact Nat.lt_of_succ_lt (afterRegisters y hy)
  have afterFirst : ∀ y ∈ dataReads i ++ (registerWrites i s ++ (performed (eventActions i s) ++ [.writeControl w])),
      1 < y.phase := by
    intro y hy
    rcases List.mem_append.mp hy with hy | hy
    · simp [(mem_dataReads.mp hy).1]
    · exact Nat.lt_of_succ_lt (afterData y hy)
  rw [eventAccesses_eq hi]
  simp only [List.cons_append, List.append_assoc]
  refine .cons afterFirst (List.pairwise_append.mpr ⟨inOrder_dataReads i, List.pairwise_append.mpr
    ⟨inOrder_registerWrites i s, List.pairwise_append.mpr ⟨?performed, List.pairwise_singleton .., ?control⟩,
      ?registers⟩, ?data⟩)
  case performed => exact (eventEmits_eventActions i s).inOrder_performed
  case control => simpa using fun x hx => (phase_of_mem_performed hx).2
  case registers =>
    intro x hx y hy
    rw [(mem_registerWrites.mp hx).1]
    exact afterRegisters y hy
  case data =>
    intro x hx y hy
    rw [(mem_dataReads.mp hx).1]
    exact afterData y hy

/-- What the accesses of an event show is its actions, but for the effects of the control write. -/
theorem filterMap_shown_eventAccesses {i : Instr} (hi : i.isEvent = true) (s : State) :
    (eventAccesses i s).filterMap Access.shown = (eventActions i s).filter (fun a => !a.isControl) := by
  have hData : (dataReads i).filterMap Access.shown = [] := by
    simpa using fun x hx => by rw [(mem_dataReads.mp hx).1]
  have hRegisters : (registerWrites i s).filterMap Access.shown = [] := by
    simpa using fun x hx => by rw [(mem_registerWrites.mp hx).1]
  rw [eventAccesses_eq hi, List.filterMap_cons_none rfl, List.filterMap_append, List.filterMap_append, hData, hRegisters,
    filterMap_shown_performed, List.nil_append, List.nil_append]

/-- The actions of the return are effects of the control write. -/
theorem filter_not_isControl_closingActions (w : ControlWrite) :
    w.closingActions.filter (fun a => !a.isControl) = [] := by
  rcases closingActions_cases w with e | e <;> rw [e] <;> rfl

/-- Settles O50: the accesses are (1), (2), (3) and those that perform the event's actions, as `eventAccesses_eq` has them, and
then the one control write, `eventReturn`. -/
theorem accessesStandInTheOrderOfOneStep : Obligations.AccessesStandInTheOrderOfOneStep := by
  intro i s hi
  refine ⟨_, eventActions i s ++ (eventReturn i).closingActions, eventAccesses i s ++ [.writeControl (eventReturn i)],
    exec_of_isEvent hi s, by simp, by simp, inOrder_eventAccesses hi s _, ?first, ?readsData, ?writesRegisters,
    ⟨eventReturn i, by simp, ?stop, ?ackEn⟩, rfl, ?shown⟩
  case first => simp [eventAccesses_eq hi]
  case readsData => simp [eventAccesses_eq hi, mem_dataReads, mem_registerWrites]
  case writesRegisters => simp [eventAccesses_eq hi, mem_dataReads, mem_registerWrites]
  case stop => cases i <;> simp [eventReturn]
  case ackEn => cases i <;> simp [eventReturn]
  case shown =>
    rw [List.filterMap_append, List.filter_append, filterMap_shown_eventAccesses hi, filter_not_isControl_closingActions]
    rfl

/-! ### The hooks as observations (rule R147, decision D18) -/

/-- The same state without the hooks, and with other records. -/
def State.withoutHooks (s : State) (trace : List Action) (accesses : List Access) : State :=
  { s with cfg := { s.cfg with hooks := false }, trace := trace, accesses := accesses }

/-- The actions that are no hooks. -/
def actionsButHooks (acts : List Action) : List Action := acts.filter (fun a => !a.isHook)

/-- The accesses that signal no hook. -/
def accessesButHooks (accs : List Access) : List Access := accs.filter (fun a => !a.isHook)

@[simp] theorem actionsButHooks_nil : actionsButHooks [] = [] := rfl
@[simp] theorem accessesButHooks_nil : accessesButHooks [] = [] := rfl

@[simp] theorem actionsButHooks_append (x y : List Action) :
    actionsButHooks (x ++ y) = actionsButHooks x ++ actionsButHooks y :=
  List.filter_append ..

@[simp] theorem accessesButHooks_append (x y : List Access) :
    accessesButHooks (x ++ y) = accessesButHooks x ++ accessesButHooks y :=
  List.filter_append ..

/-- A hook, and its signal after the read of STATUS, is all that is left out. -/
theorem hook_withoutHooks (a : Action) (ha : a.isHook = true) (present : Bool) :
    hookActions false a = actionsButHooks (hookActions present a) ∧
    .readStatus :: (hookActions false a).map .signalHook =
      accessesButHooks (.readStatus :: (hookActions present a).map .signalHook) := by
  cases present with
  | false => exact ⟨rfl, rfl⟩
  | true =>
    refine ⟨?_, rfl⟩
    rw [hookActions_true, actionsButHooks, List.filter_singleton, ha]
    rfl

@[simp] theorem actionsButHooks_closingActions (w : ControlWrite) : actionsButHooks w.closingActions = w.closingActions := by
  rcases closingActions_cases w with e | e <;> rw [e] <;> rfl

/-- A data event emits no hook, and reads none of what the hooks change. -/
theorem dataEvent_withoutHooks (b : Byte) (s : State) (trace : List Action) (accesses : List Access) :
    eventActions (.rxd b) (s.withoutHooks trace accesses) = actionsButHooks (eventActions (.rxd b) s) ∧
    eventAccesses (.rxd b) (s.withoutHooks trace accesses) = accessesButHooks (eventAccesses (.rxd b) s) := by
  cases hws : s.ws with
  | hi => simp [eventActions, eventAccesses, State.withoutHooks, hws, actionsButHooks, accessesButHooks]
  | data => simp [eventActions, eventAccesses, State.withoutHooks, hws, actionsButHooks, accessesButHooks]
  | lo =>
    by_cases ha : assembleAddress s.ah b = sentinel <;>
      simp [eventActions, eventAccesses, State.withoutHooks, hws, ha, actionsButHooks, accessesButHooks]

/-- A stop emits the flush all the same, and the exit request only with the hooks. -/
theorem stop_withoutHooks (s : State) (trace : List Action) (accesses : List Access) :
    eventActions .stop (s.withoutHooks trace accesses) = actionsButHooks (eventActions .stop s) ∧
    eventAccesses .stop (s.withoutHooks trace accesses) = accessesButHooks (eventAccesses .stop s) := by
  by_cases hta : s.ta = sentinel
  · have hta' : (s.withoutHooks trace accesses).ta = sentinel := hta
    simp only [eventActions, eventAccesses, if_pos hta, if_pos hta']
    exact hook_withoutHooks .hookExitRequest rfl s.cfg.hooks
  · simp [eventActions, eventAccesses, State.withoutHooks, hta, actionsButHooks, accessesButHooks]

/-- Without the hooks an event emits and touches the same, but for the hooks. -/
theorem event_withoutHooks (i : Instr) (s : State) (trace : List Action) (accesses : List Access) :
    eventActions i (s.withoutHooks trace accesses) = actionsButHooks (eventActions i s) ∧
    eventAccesses i (s.withoutHooks trace accesses) = accessesButHooks (eventAccesses i s) := by
  cases i with
  | rxd b => exact dataEvent_withoutHooks b s trace accesses
  | rxgc b => exact dataEvent_withoutHooks b s trace accesses
  | stop => exact stop_withoutHooks s trace accesses
  | berr =>
    obtain ⟨hacts, haccs⟩ := hook_withoutHooks .hookBusError rfl s.cfg.hooks
    exact ⟨congrArg (List.cons Action.stop) hacts, haccs⟩
  | unk c => exact hook_withoutHooks (.hookUnrecognized c) rfl s.cfg.hooks
  | _ => exact ⟨rfl, rfl⟩

/-- The run from `s` to `t` adds to the records, and without the hooks it ends in the same registers and adds the same, but for
the hooks. -/
def HooksOnlyObserve (run : State → Outcome) (s t : State) : Prop :=
  ∃ acts accs, t.trace = s.trace ++ acts ∧ t.accesses = s.accesses ++ accs ∧
    ∀ trace accesses, run (s.withoutHooks trace accesses) =
      .next (t.withoutHooks (trace ++ actionsButHooks acts) (accesses ++ accessesButHooks accs))

theorem HooksOnlyObserve.of_event {i : Instr} (hi : i.isEvent = true) (s : State) :
    HooksOnlyObserve (exec i) s ((eventEffect i s).controlWrite (eventReturn i)) := by
  refine ⟨eventActions i s ++ (eventReturn i).closingActions, eventAccesses i s ++ [.writeControl (eventReturn i)],
    by simp, by simp, fun trace accesses => ?_⟩
  obtain ⟨hacts, haccs⟩ := event_withoutHooks i s trace accesses
  rw [exec_of_isEvent hi, eventEffect_eq, eventEffect_eq, hacts, haccs, actionsButHooks_append, accessesButHooks_append,
    actionsButHooks_closingActions, ← List.append_assoc, ← List.append_assoc]
  rfl

/-- A run that records nothing, and does the same without the hooks. -/
theorem HooksOnlyObserve.of_silent {run : State → Outcome} {s t : State} (htrace : t.trace = s.trace)
    (haccesses : t.accesses = s.accesses)
    (hrun : ∀ trace accesses, run (s.withoutHooks trace accesses) = .next (t.withoutHooks trace accesses)) :
    HooksOnlyObserve run s t :=
  ⟨[], [], by simp [htrace], by simp [haccesses], by simpa using hrun⟩

theorem HooksOnlyObserve.of_exec {i : Instr} {s t : State} (h : exec i s = .next t) : HooksOnlyObserve (exec i) s t := by
  rcases exec_cases h with ⟨hi, rfl⟩ | ⟨rfl, rfl⟩ | ⟨a, rfl, hdis, rfl⟩ | ⟨rfl, rfl⟩
  · exact .of_event hi s
  · exact .of_silent rfl rfl fun _ _ => rfl
  · exact .of_silent rfl rfl fun trace accesses => exec_init_of_disabled (s := s.withoutHooks trace accesses) hdis a
  · exact .of_silent rfl rfl fun _ _ => rfl

theorem HooksOnlyObserve.of_execAll {is : List Instr} {s t : State} (h : execAll is s = .next t) :
    HooksOnlyObserve (execAll is) s t := by
  induction is generalizing s with
  | nil =>
    cases h
    exact .of_silent rfl rfl fun _ _ => rfl
  | cons i is ih =>
    simp only [execAll] at h
    split at h
    · rename_i u hu
      obtain ⟨acts, accs, htrace, haccesses, hrun⟩ := HooksOnlyObserve.of_exec hu
      obtain ⟨acts', accs', htrace', haccesses', hrun'⟩ := ih h
      refine ⟨acts ++ acts', accs ++ accs', by simp [htrace, htrace'], by simp [haccesses, haccesses'],
        fun trace accesses => ?_⟩
      simp [execAll, hrun, hrun']
    · cases h
    · cases h

/-- Settles O38: what a run adds without the hooks is what it adds with them, filtered. -/
theorem hooksAreObservationsOnly : Obligations.HooksAreObservationsOnly := by
  intro is s t _ h
  obtain ⟨acts, accs, htrace, haccesses, hrun⟩ := HooksOnlyObserve.of_execAll h
  refine ⟨_, hrun s.trace s.accesses, rfl, ?accesses, ?trace, actionsButHooks acts, rfl, ?noHook⟩
  case accesses => simp [State.withoutHooks, accessesButHooks, haccesses]
  case trace => simp [State.withoutHooks, actionsButHooks, htrace]
  case noHook => simp [actionsButHooks]

end Sys2Proof.Machine

/-! SUPPORT. The statements of 70_reset_and_hazards.md: when a run ends, what a bus error leaves behind, the first stop after
INITIALIZE, and the exit that stays requested until a write address match. -/

namespace Sys2Proof.Machine

/-! ### The end of a run (rules R142, R163, decision D29, log 7) -/

/-- An instruction is never refused as the end of the run. -/
theorem exec_ne_runEnded (i : Instr) (s : State) : exec i s ≠ .refused .runEnded := by
  cases i with
  | init a => cases h : s.ctrl.moduleEn <;> simp [exec_init_of_disabled, exec_init_of_enabled, h]
  | _ => exact nofun

theorem handle_ne_runEnded (s : State) : handle s ≠ .refused .runEnded :=
  exec_ne_runEnded s.pendingEvent s

/-- A raise is refused for what stands in its way, never as the end of the run. -/
theorem raiseTurn_ne_runEnded (c d : Byte) (s : State) : raiseTurn c d s ≠ .refused .runEnded := by
  unfold raiseTurn
  split_ifs <;> exact nofun

theorem handlerTurn_ne_runEnded (s : State) : handlerTurn s ≠ .refused .runEnded := by
  unfold handlerTurn
  split
  · exact handle_ne_runEnded s
  · exact nofun

/-- A host word is refused for its `op`, or as INITIALIZE while enabled, never as the end of the run. -/
theorem firmwareTurn_ne_runEnded (w : BitVec 9) (s : State) : firmwareTurn w s ≠ .refused .runEnded := by
  cases hw : decodeHost w with
  | ok i =>
    rw [firmwareTurn_of_ok hw]
    exact exec_ne_runEnded i s
  | error e =>
    cases e
    rw [firmwareTurn_of_error hw]
    exact nofun

/-- In every state, consistent or not, the run has ended exactly when no input is left and the handler does not fire. -/
theorem step_eq_runEnded_iff (s : State) :
    step s = .refused .runEnded ↔ s.inputs = [] ∧ s.handlerFires = false := by
  obtain ⟨ins, hin⟩ : ∃ ins, s.inputs = ins := ⟨_, rfl⟩
  cases ins with
  | nil =>
    rw [step_of_inputs_nil hin]
    cases hfires : s.handlerFires with
    | true => simpa [hin] using handle_ne_runEnded s
    | false => simp [hin]
  | cons input rest =>
    suffices step s ≠ .refused .runEnded by simp [hin, this]
    cases input with
    | condition c d =>
      rw [step_of_condition hin]
      split
      · exact handle_ne_runEnded s
      · exact raiseTurn_ne_runEnded _ _ _
    | handlerTurn =>
      rw [step_of_handlerTurn hin]
      exact handlerTurn_ne_runEnded _
    | firmware w =>
      rw [step_of_firmware hin]
      exact firmwareTurn_ne_runEnded _ _

/-- In consistent modes a pending condition always fires: only an enabled peripheral has one, and its interrupt is enabled. -/
theorem ModeConsistent.handlerFires_eq_pending {s : State} (hs : ModeConsistent s) : s.handlerFires = s.ctrl.pending := by
  rcases (modeConsistent_iff s).mp hs with ⟨hctrl, -, -⟩ | ⟨hen, hint, -⟩
  · simp [State.handlerFires, Ctrl.fires, hctrl]
  · simp [State.handlerFires, Ctrl.fires, hen, hint]

/-- Settles O48: the run has ended when the handler does not fire, which in consistent modes is that nothing is pending. -/
theorem runHasEndedExactlyWhenNothingIsLeft : Obligations.RunHasEndedExactlyWhenNothingIsLeft := by
  intro s hs
  rw [step_eq_runEnded_iff, hs.handlerFires_eq_pending]

/-! ### Every run ends (rules R163, R175, log 17) -/

theorem State.turnsLeft_of_pending {s : State} (h : s.ctrl.pending = true) : s.turnsLeft = 2 * s.inputs.length + 1 := by
  simp [State.turnsLeft, h]

theorem State.turnsLeft_of_not_pending {s : State} (h : s.ctrl.pending = false) : s.turnsLeft = 2 * s.inputs.length := by
  simp [State.turnsLeft, h]

/-- Every input on the list counts two turns, pending condition or not. -/
theorem State.two_mul_inputs_length_le_turnsLeft (s : State) : 2 * s.inputs.length ≤ s.turnsLeft := Nat.le_add_right ..

/-- A host operation leaves nothing pending (decision D15), and the inputs as they are. -/
theorem pending_inputs_of_exec_hostOp {i : Instr} {s t : State} (hi : i.isEvent = false) (h : exec i s = .next t) :
    t.ctrl.pending = false ∧ t.inputs = s.inputs := by
  rcases exec_cases h with ⟨hev, -⟩ | ⟨-, rfl⟩ | ⟨a, -, -, rfl⟩ | ⟨-, rfl⟩
  · simp [hi] at hev
  · exact ⟨rfl, rfl⟩
  · exact ⟨rfl, rfl⟩
  · exact ⟨rfl, rfl⟩

/-- Every step uses up a turn: the handler the pending condition, a raise one of the two turns of its input, an idle turn and a
host operation their input. -/
theorem turnsLeft_lt_of_step {s t : State} (h : step s = .next t) : t.turnsLeft < s.turnsLeft := by
  rcases step_cases h with ⟨s₀, hfires, hs₀, rfl⟩ | ⟨c, d, rest, hin, -, hpend, rfl⟩ | ⟨rest, hin, -, rfl⟩ |
    ⟨w, rest, i, hin, -, hi, h⟩
  · have hpend : s.ctrl.pending = true := (s.handlerFires_iff.mp hfires).1
    have hlen : s₀.inputs.length ≤ s.inputs.length := by
      rcases hs₀ with rfl | ⟨rest, hin, rfl⟩
      · exact le_rfl
      · simp [hin]
    rw [State.turnsLeft_of_pending hpend, State.turnsLeft_of_not_pending rfl, State.controlWrite_inputs, eventEffect_inputs]
    omega
  · rw [State.turnsLeft_of_not_pending hpend, State.turnsLeft_of_pending rfl, hin]
    exact Nat.lt_succ_self _
  · simp [State.turnsLeft, hin]
  · obtain ⟨hpend, hins⟩ := pending_inputs_of_exec_hostOp hi h
    rw [State.turnsLeft_of_not_pending hpend, hins]
    calc 2 * rest.length < 2 * s.inputs.length := by simp [hin]
      _ ≤ s.turnsLeft := s.two_mul_inputs_length_le_turnsLeft

/-- A run that answers a next state has taken its steps from the turns that were left. -/
theorem add_turnsLeft_le_of_run {k : Nat} {s t : State} (h : Host.Core.run Sys2Proof.core k s = .next t) :
    k + t.turnsLeft ≤ s.turnsLeft := by
  induction k generalizing s with
  | zero =>
    cases h
    exact (Nat.zero_add _).le
  | succ k ih =>
    obtain ⟨u, hu, hk⟩ := exists_step_of_run_succ h
    have hstep := turnsLeft_lt_of_step hu
    have hrun := ih hk
    omega

/-- Settles O49: `turnsLeft` bounds the steps of every run that goes on. -/
theorem everyRunEnds : Obligations.EveryRunEnds := by
  intro s t k hk h
  have hrun := add_turnsLeft_le_of_run h
  omega

/-! ### A bus error between or after the address bytes (rules R110, R171) -/

/-- One instruction at the head of a sequence. -/
theorem execAll_cons {i : Instr} {s t : State} (h : exec i s = .next t) (is : List Instr) :
    execAll (i :: is) s = execAll is t := by
  simp only [execAll, h]

/-- Settles O12: a bus error leaves `WS`, `AH` and `TA` as the events before it did, between the address bytes and after them,
and the next data byte or stop finds them so. -/
theorem busErrorLeavesStaleState : Obligations.BusErrorLeavesStaleState := by
  intro s h l x
  constructor
  case left =>
    obtain ⟨t, hmatch, hws⟩ : ∃ t, exec .amw s = .next t ∧ t.ws = .hi :=
      ⟨_, writeMatchRestartsTheAddress s .amw (.inl rfl), rfl⟩
    have hhigh := highByteIsCaptured t h (.rxd h) (.inl rfl) hws
    exact ⟨_, (execAll_cons hmatch _).trans ((execAll_cons hhigh _).trans (execAll_cons (busErrorOnlyStrobes _) [])), rfl, rfl,
      _, lowByteAssemblesTheAddress _ l (.rxd l) (.inl rfl) rfl, rfl, rfl⟩
  case right =>
    obtain ⟨t, haddress, hta, -, -, hws⟩ := twoAddressBytesAssembleBigEndian s h l .amw (.rxd h) (.rxd l) (.inl rfl) (.inl rfl)
      (.inl rfl)
    have hbyte := streamedByteGoesToSetByte t x (.rxd x) (.inl rfl) hws
    refine ⟨_, (execAll_append haddress).trans ((execAll_cons hbyte _).trans (execAll_cons (busErrorOnlyStrobes _) [])), hws, hta,
      _, exec_of_isEvent rfl _, fun hne => ?_⟩
    simp [eventActions, eventReturn, hta, hne]

/-! ### The first stop after INITIALIZE (rules R122, R172, decision D8) -/

/-- Settles O20: INITIALIZE leaves the trace, and in `TA` the value `TA_RESET`, which is what the stop tests. -/
theorem firstStopTestsTheResetTarget : Obligations.FirstStopTestsTheResetTarget := by
  intro s a hdis
  refine ⟨_, (execAll_cons (exec_init_of_disabled hdis a) [.stop]).trans (execAll_cons_of_isEvent rfl [] _), ?_⟩
  rw [adapterCalls_event, adapterCalls_stopActions]
  rfl

/-! ### The exit stays requested (rules R87, R88, R180) -/

/-- The actions hold `n` exit requests, and nothing that commits or moves the address. -/
structure RequestsExits (n : Nat) (acts : List Action) : Prop where
  noFlush : Action.flush ∉ acts
  noSetAddress : ∀ a, Action.setAddress a ∉ acts
  exits : acts.count .hookExitRequest = n

theorem RequestsExits.append {m n : Nat} {x y : List Action} (hx : RequestsExits m x) (hy : RequestsExits n y) :
    RequestsExits (m + n) (x ++ y) where
  noFlush := by simp [hx.noFlush, hy.noFlush]
  noSetAddress a := by simp [hx.noSetAddress, hy.noSetAddress]
  exits := by rw [List.count_append, hx.exits, hy.exits]

theorem requestsExits_nil : RequestsExits 0 [] := ⟨List.not_mem_nil, fun _ => List.not_mem_nil, rfl⟩

theorem requestsExits_closingActions (w : ControlWrite) : RequestsExits 0 w.closingActions := by
  rcases closingActions_cases w with e | e <;> rw [e] <;> exact ⟨by simp, by simp, rfl⟩

/-- The sentinel is assembled and the hooks are on. -/
structure State.ExitAssembled (s : State) : Prop where
  ws : s.ws = .data
  ta : s.ta = 0xFFFF#16
  hooks : s.cfg.hooks = true

/-- Only a write address match ends it: the other events leave `WS` and `TA` where the decoder streams. -/
theorem State.ExitAssembled.of_event {s : State} (hs : s.ExitAssembled) {i : Instr} (hw : i ≠ .amw) (hg : i ≠ .amgc)
    (w : ControlWrite) : ((eventEffect i s).controlWrite w).ExitAssembled where
  ws := (eventEffect_ws i s).trans ((eventRegisters_of_ws_data hs.ws i).2 hw hg)
  ta := ((eventEffect_ta i s).trans (eventRegisters_of_ws_data hs.ws i).1).trans hs.ta
  hooks := (congrArg Config.hooks (eventEffect_cfg i s)).trans hs.hooks

/-- With the sentinel assembled the actions of every event are known: a stop's is the exit request, and no other event has
one. -/
theorem State.ExitAssembled.requestsExits_eventActions {s : State} (hs : s.ExitAssembled) (i : Instr) :
    RequestsExits ([i].count .stop) (eventActions i s) := by
  obtain ⟨hws, hta, hhooks⟩ := hs
  cases i with
  | rxd b | rxgc b =>
    simp only [eventActions, hws]
    exact ⟨by simp, by simp, rfl⟩
  | stop | berr | unk c =>
    simp only [eventActions, hta, hhooks]
    exact ⟨by simp, by simp, rfl⟩
  | amr | txa =>
    simp only [eventActions]
    exact ⟨by simp, by simp, rfl⟩
  | _ => exact requestsExits_nil

/-- Along events without a write address match the sentinel stays assembled, and each stop adds one exit request. -/
theorem State.ExitAssembled.exists_execAll {is : List Instr} {s : State} (hs : s.ExitAssembled)
    (his : ∀ i ∈ is, i.isEvent = true ∧ i ≠ .amw ∧ i ≠ .amgc) :
    ∃ t acts, execAll is s = .next t ∧ t.ExitAssembled ∧ t.trace = s.trace ++ acts ∧ RequestsExits (is.count .stop) acts := by
  induction is generalizing s with
  | nil => exact ⟨s, [], rfl, hs, by simp, requestsExits_nil⟩
  | cons i is ih =>
    obtain ⟨⟨hi, hw, hg⟩, his⟩ := List.forall_mem_cons.mp his
    obtain ⟨t, acts, hrun, ht, htrace, hacts⟩ := ih (hs.of_event hw hg (eventReturn i)) his
    refine ⟨t, eventActions i s ++ (eventReturn i).closingActions ++ acts, (execAll_cons_of_isEvent hi is s).trans hrun, ht,
      by simp [htrace], ?_⟩
    have hcount : (i :: is).count .stop = [i].count .stop + 0 + is.count .stop := List.count_append (l₁ := [i]) ..
    rw [hcount]
    exact ((hs.requestsExits_eventActions i).append (requestsExits_closingActions _)).append hacts

/-- Settles O39, by induction over the list (`State.ExitAssembled.exists_execAll`): each event keeps the sentinel assembled, and
adds one exit request if it is a stop. -/
theorem exitIsSticky : Obligations.ExitIsSticky := by
  intro is s his hws hta hhooks
  obtain ⟨t, acts, hrun, ht, htrace, hacts⟩ := State.ExitAssembled.exists_execAll (s := s) ⟨hws, hta, hhooks⟩ his
  exact ⟨t, acts, hrun, ht.ws, ht.ta, htrace, hacts.noFlush, hacts.noSetAddress, hacts.exits⟩

end Sys2Proof.Machine
